-- ==== Sys2Proof/Word.lean ====
section
/-! DEFINITION. The word types of the Offing 3840 model: a byte of the sort line, a tag code, a set of
serials, and a sparse table of numbered entries. -/

namespace Sys2Proof

/-- One byte on the sort line. -/
abbrev Byte := BitVec 8

/-- A 32-bit tag code (section 1.8): sailing code, cabin number, serial and check nibble. -/
abbrev TagCode := BitVec 32

/-- A set of serials as the query results carry it (section 11.3): bit n for serial n, bit 0 clear. -/
abbrev SerialSet := BitVec 16

/-- A set of decks, bit d - 1 for deck d (section 11.3). -/
abbrev DeckSet := BitVec 24

/-- A numbered collection, sparse: a list of (number, contents) with strictly rising numbers and no
entry that holds the collection's blank contents, so that equal collections are equal data. -/
abbrev Table (α : Type) := List (Nat × α)

end Sys2Proof
end

