-- ==== Sys2Proof/Syntax.lean ====
section
/-! DEFINITION. The commands of the Offing 3840, one constructor per row of spec/opcode_table.json.
A command that stands for a frame from a field node carries the source address of the frame and the fields
of its payload; one that stands for a request of node 0 carries the request tag and the argument bytes;
one that stands for an event inside the part carries the number of the thing it happens to. -/

namespace Sys2Proof

/-- The edge of an EYE frame (section 1.8): 0 BLOCK, 1 CLEAR. -/
inductive Edge where
  | block
  | clear
  deriving DecidableEq, Repr

/-- The commands, in the order of the opcode table. -/
inductive Instr where
  /-- POWER_ON_RESET (R201): RESETN returns high, the straps ADR6 to ADR0 having been sampled. -/
  | powerOnReset (straps : BitVec 7)
  /-- FRAME_RECEIVE (R3): the bytes between two frame delimiters arrive at LINE IN. -/
  | frameReceive (bytes : List Byte)
  /-- TRACK (R24): a consumed TRACK frame. -/
  | track (src seq : Byte) (delta : BitVec 16)
  /-- EYE (R36): a consumed EYE frame. -/
  | eye (src idx : Byte) (edge : Edge) (stamp : Byte)
  /-- SCAN (R104): a consumed SCAN frame. -/
  | scan (src stamp : Byte) (codes : List TagCode)
  /-- INDUCT (R40): a consumed INDUCT frame. -/
  | induct (src idx : Byte)
  /-- KEYIN_CODE (R184): a consumed KEYIN frame with result CODE. -/
  | keyinCode (src : Byte) (slot : BitVec 16) (code : TagCode)
  /-- KEYIN_REJECT (R186): a consumed KEYIN frame with result REJECT. -/
  | keyinReject (src : Byte) (slot : BitVec 16)
  /-- HOLD (R115): a consumed HOLD frame with action HOLD. -/
  | hold (src : Byte) (code : TagCode)
  /-- RELEASE (R117): a consumed HOLD frame with action RELEASE. -/
  | release (src : Byte) (code : TagCode)
  /-- CAGE_PRESENT (R134): a consumed CAGE frame with event PRESENT. -/
  | cagePresent (src : Byte) (cageId : BitVec 16)
  /-- CAGE_FULL_ON (R136). -/
  | cageFullOn (src : Byte)
  /-- CAGE_FULL_OFF (R136). -/
  | cageFullOff (src : Byte)
  /-- CAGE_REMOVED (R137). -/
  | cageRemoved (src : Byte)
  /-- DRIVE_READY (R55). -/
  | driveReady (src : Byte)
  /-- DRIVE_FAULT (R55). -/
  | driveFault (src : Byte)
  /-- REQ_BAD_KIND (R193, R196): a request whose kind, or whose query kind, is not defined. -/
  | reqBadKind (tag kind : Byte) (args : List Byte)
  /-- LOAD (R84). -/
  | load (tag : Byte) (args : List Byte)
  /-- COMMIT (R88). -/
  | commit (tag sailing : Byte) (checksum : BitVec 32)
  /-- DISCARD (R95). -/
  | discard (tag sailing : Byte)
  /-- ERASE (R96). -/
  | erase (tag sailing : Byte)
  /-- CLOSE_DECK (R97). -/
  | closeDeck (tag sailing deck : Byte)
  /-- REOPEN_DECK (R97). -/
  | reopenDeck (tag sailing deck : Byte)
  /-- CLOSE_SAILING (R97): the deck byte is carried and not used. -/
  | closeSailing (tag sailing deck : Byte)
  /-- OPEN_SAILING (R97): the deck byte is carried and not used. -/
  | openSailing (tag sailing deck : Byte)
  /-- LOCK (R99). -/
  | lock (tag sailing : Byte)
  /-- PIN (R131). -/
  | pin (tag chute cls : Byte)
  /-- UNPIN (R132). -/
  | unpin (tag chute : Byte)
  /-- PLAYER_OFF (R169): the level byte is carried and not used. -/
  | playerOff (tag player level : Byte)
  /-- PLAYER_AUTO (R169): the level byte is carried and not used. -/
  | playerAuto (tag player level : Byte)
  /-- PLAYER_DIRECT (R169). -/
  | playerDirect (tag player level : Byte)
  /-- SORT_HOLD (R194). -/
  | sortHold (tag : Byte)
  /-- SORT_RELEASE (R195). -/
  | sortRelease (tag : Byte)
  /-- QUERY_CABIN (R100): the selector is a cabin number for ACTIVE and a position for STAGING. -/
  | queryCabin (tag sailing bank : Byte) (selector : BitVec 16)
  /-- QUERY_BAG (R77). -/
  | queryBag (tag : Byte) (index : BitVec 16)
  /-- QUERY_CHUTE (R144). -/
  | queryChute (tag chute : Byte)
  /-- QUERY_CAGE (R145). -/
  | queryCage (tag source number start : Byte)
  /-- QUERY_STRAY (R191). -/
  | queryStray (tag start : Byte)
  /-- QUERY_HOLD (R120). -/
  | queryHold (tag start : Byte)
  /-- QUERY_SAILING (R101). -/
  | querySailing (tag sailing : Byte)
  /-- SNAPSHOT (R197). -/
  | snapshot (tag : Byte)
  /-- RESTART (R199). -/
  | restart (tag : Byte)
  /-- TRANSMIT_COMPLETE (R11): the last byte of a frame leaves LINE OUT. -/
  | transmitComplete
  /-- SILENCE_TIMER_EXPIRY (R33). -/
  | silenceTimerExpiry
  /-- RUN_IDLE_TIMER_EXPIRY (R53). -/
  | runIdleTimerExpiry
  /-- SLOW_IDLE_TIMER_EXPIRY (R53). -/
  | slowIdleTimerExpiry
  /-- INDUCT_TIMEOUT (R48). -/
  | inductTimeout
  /-- ENTRY_OVERSIZE (R52). -/
  | entryOversize
  /-- LOOP_EYE_LENGTH_REACHED (R68), at one of loop eyes 1 to 7. -/
  | loopEyeLengthReached (eye : Nat)
  /-- MISSED_DIVERT (R157), of one bag record. -/
  | missedDivert (bag : Nat)
  /-- WINDOW_HOLD_END (R171), of one player. -/
  | windowHoldEnd (player : Nat)
  /-- RAMP_TIMER_EXPIRY (R170), of one player. -/
  | rampTimerExpiry (player : Nat)
  /-- TIME_HOLD_EXPIRY (R171), of one player. -/
  | timeHoldExpiry (player : Nat)
  /-- TRIGGER_TIMEOUT (R173), of one player. -/
  | triggerTimeout (player : Nat)
  /-- COMMIT_STEP (R89), of one sailing's commit engine. -/
  | commitStep (sailing : Nat)
  /-- COMMIT_SWAP (R92), of one sailing's commit engine. -/
  | commitSwap (sailing : Nat)
  /-- RESTART_SWEEP_STEP (R102). -/
  | restartSweepStep
  /-- RESTART_COMPLETE (R200). -/
  | restartComplete
  /-- RESETN_LOW (R201, R1): the RESETN pin goes low. -/
  | resetnLow
  deriving DecidableEq, Repr

end Sys2Proof
end

