-- ==== Sys2Proof/Decode.lean ====
section
/-! DEFINITION. The words of commands. No row of spec/opcode_table.json gives bits (every "fields" is empty), so no
word spells a command; the frames that carry commands on the sort line are laid out in Machine/Operands.lean. -/

namespace Sys2Proof

/-- The command a word of the opcode table spells: none, since the table gives no row any bits. -/
def decodeTableWord (_nbits _w : Nat) : Option Instr := none

end Sys2Proof
end

