-- ==== Sys2Proof/Config.lean ====
section
/-! DEFINITION. What the manual leaves open: constants with no body, so that no proof can rest on a value
of them. Each is named by a row of the assumption log. -/

namespace Sys2Proof.Config

/-- A fresh choice of the model's own: the n-th time the manual says that two things may be taken in
either order within one event, this number (modulo the number of things) says which is taken first.
DESIGN CHOICE (log 3): the manual fixes no order, and nothing constrains this one. -/
opaque choice : Nat → Nat

/-- The second byte of a target whose kind byte is 0, none: the manual gives it no value.
DESIGN CHOICE (log 4). -/
opaque targetNoneByte : Byte

/-- Bit 7 of the full byte in a QUERY CAGE of a closed cage: the manual gives the full-sensor flag
for CURRENT only. DESIGN CHOICE (log 5). -/
opaque closedCageSensorBit : Bool

/-- The present flag of a QUERY CAGE of a SORT chute whose cage is ABSENT: the manual gives the state
and the number of codes of that answer, and not this flag. DESIGN CHOICE (log 6). -/
opaque absentCagePresent : Bool

/-- Bits 6 and 5, sailing index and held, of the state byte that QUERY STRAY gives for a WAITING entry: the manual
gives both for a KEYED entry alone. DESIGN CHOICE (log 34). -/
opaque waitingStrayBits : BitVec 2

/-- Bit 4 of the state byte that QUERY STRAY gives for an entry: the layout names bits 7 to 5 and the low four.
DESIGN CHOICE (log 41). -/
opaque strayStateSpareBit : BitVec 1

/-- Bits 12 and 11 of the word that QUERY STRAY gives for an entry, between its last-scan count and its Lb: the layout
names the top three bits and the low eleven. DESIGN CHOICE (log 41). -/
opaque strayWordSpareBits : BitVec 2

/-- Bits 7 to 3 of the flags byte that QUERY BAG gives for a live record: the layout names bits 2 to 0. DESIGN CHOICE
(log 41). -/
opaque bagFlagSpareBits : BitVec 5

/-- Bits 7 to 2 of the flags byte of a LOADED report: the layout names bits 1 and 0. DESIGN CHOICE (log 41). -/
opaque loadedFlagSpareBits : BitVec 6

end Sys2Proof.Config
end

