-- ==== Sys2Proof/Machine/State.lean ====
section
/-! DEFINITION. The state of the Offing 3840, block by block as section 3 of spec/00_scope.md lists them, the
reasons a step can stop, and the state after power-on reset. -/

namespace Sys2Proof.Machine

/-! ### Line Interface and Node Table (01_the_sort_line.md) -/

/-- The three speed states (R53), with the codes 0, 1 and 2 of SPEED frames and of the status summary. -/
inductive SpeedState where
  | standby
  | slow
  | run
  deriving DecidableEq, Repr

/-- A CAGESIG value (section 1.8): 0 LOADING, 1 FULL, 2 CLOSED. -/
inductive CageSig where
  | loading
  | full
  | closed
  deriving DecidableEq, Repr

/-- The status of a KEYIN_ACK (R187). -/
inductive KeyinStatus where
  | accepted
  | already
  | rejected
  | noSlot
  | badCode
  | noMatch
  | duplicate
  deriving DecidableEq, Repr

/-- The status of a HOLD_ACK (R118). -/
inductive HoldStatus where
  | held
  | already
  | full
  | released
  | notHeld
  | badCode
  deriving DecidableEq, Repr

/-- What a control frame says (R11, section 1.8). -/
inductive CtrlMsg where
  /-- LEVEL: actuator index within the node, target level, ramp time in ms. -/
  | level (actuator target ramp : Nat)
  /-- SPEED: the new speed state. -/
  | speed (new : SpeedState)
  /-- GATE: station local index, and the answer, PERMIT when true and WAIT when false. -/
  | gate (localIdx : Nat) (permit : Bool)
  /-- CAGESIG. -/
  | cagesig (sig : CageSig)
  /-- KEYIN_ACK: the slot number as the KEYIN carried it, and the status. -/
  | keyinAck (slot : BitVec 16) (status : KeyinStatus)
  /-- HOLD_ACK: the tag code as the HOLD carried it, and the status. -/
  | holdAck (code : TagCode) (status : HoldStatus)
  deriving DecidableEq, Repr

/-- A control frame in the control queue: its destination and what it says. Its source is the part's
address, which stands until the next power-on reset, and its check is computed from the rest (R11). -/
structure CtrlFrame where
  dest : Nat
  msg : CtrlMsg
  deriving DecidableEq, Repr

/-- The status of a reply (section 1.8). -/
inductive Status where
  | ok
  | busy
  | state
  | range
  | order
  | checksum
  | conflict
  | locked
  | abandoned
  | badKind
  deriving DecidableEq, Repr

/-- A reply (RSP) as built (R13): tag and kind echoed, the status, the status summary byte as it stood when the
reply was built (R19), and the results. -/
structure Reply where
  tag : Byte
  kind : Byte
  status : Status
  summary : Byte
  results : List Byte
  deriving DecidableEq, Repr

/-- A reply slot (R13). -/
inductive Slot where
  | free
  | executing (tag kind : Byte)
  | ready (reply : Reply)
  deriving DecidableEq, Repr

/-- Where the frame on LINE OUT comes from (R15). -/
inductive TxSource where
  | control
  | transit
  | reply (slot : Nat)
  | report
  deriving DecidableEq, Repr

/-- The frame being sent on LINE OUT: where it stands until its last byte has been sent, and its bytes. -/
structure Sending where
  source : TxSource
  bytes : List Byte
  deriving DecidableEq, Repr

/-- The Line Interface's state (chapter 1). The on-line state follows from the node address (R1). -/
structure Line where
  nodeAddr : Nat
  transit : List (List Byte)
  control : List CtrlFrame
  slots : Table Slot
  /-- the READY slots, in the order in which they became READY (R13) -/
  readyOrder : List Nat
  runCount : Nat
  controlOverrun : Bool
  sending : Option Sending
  deriving DecidableEq, Repr

/-- An eye identity (section 1.4). -/
inductive EyeId where
  | entry
  | loop (k : Nat)
  | chute (c : Nat)
  deriving DecidableEq, Repr

/-- The type of a station (section 3.1). -/
inductive StationType where
  | normal
  | encode
  deriving DecidableEq, Repr

/-- A station as a STATION entry maps it: its number and its type. -/
structure StationId where
  number : Nat
  type : StationType
  deriving DecidableEq, Repr

/-- The role of a Node Table entry with the identities its slots map (section 1.4). -/
inductive NodeRole where
  | encoder
  | eye (ids : List (Option EyeId))
  | scanner (reader : Nat)
  | station (ids : List (Option StationId))
  | screening
  | cage (chute : Nat)
  | drive
  deriving DecidableEq, Repr

/-- A Node Table entry that is not empty. -/
structure NodeEntry where
  addr : Nat
  role : NodeRole
  deriving DecidableEq, Repr

/-! ### Loop Tracker (02_loop_tracking.md) -/

/-- The loop configuration (R20). -/
structure LoopCfg where
  len : Nat
  entryPos : Nat
  /-- Q1 to Q7, each absent or a position -/
  eyes : List (Option Nat)
  reader0 : Option Nat
  reader1 : Option Nat
  eyeTol : Nat
  wideTol : Nat
  recircLimit : Nat
  loopLimit : Nat
  gapBefore : Nat
  gapAfter : Nat
  maxBag : Nat
  inductTimeout : Nat
  runIdle : Nat
  slowIdle : Nat
  vRun : Nat
  deriving DecidableEq, Repr

/-- One entry of the position history (R30). -/
structure HistEntry where
  seq : Nat
  pos : Nat
  adv : Nat
  deriving DecidableEq, Repr

/-- The track states (section 2.5). -/
inductive TrackState where
  | notReady
  | tracking
  | blind
  deriving DecidableEq, Repr

/-- The Loop Tracker's state (chapter 2). -/
structure Tracker where
  cfg : Option LoopCfg
  pos : Nat
  debt : Nat
  speed : Nat
  expected : Option Nat
  /-- oldest first, at most 16 -/
  history : List HistEntry
  state : TrackState
  clean : Nat
  /-- the 20 ms silence timer: running or stopped -/
  silence : Bool
  deriving DecidableEq, Repr

/-! ### Induction Gate (03_induction_and_loop_speed.md) -/

/-- The induction in flight: the INDUCTING record and its remaining induct count. -/
structure InFlight where
  bag : Nat
  remaining : Nat
  deriving DecidableEq, Repr

/-- An open measurement of a bag's length: the record and the measured advance m. -/
structure Measure where
  bag : Nat
  m : Nat
  deriving DecidableEq, Repr

/-- The drive state (R55, R56). -/
inductive DriveState where
  | unknown
  | ready
  | fault
  deriving DecidableEq, Repr

/-- The Induction Gate's state (chapter 3). A running timer holds the time it was started with, in s. -/
structure Gate where
  slots : Table (Option StationType)
  pointer : Nat
  inFlight : Option InFlight
  entryMeas : Option Measure
  speed : SpeedState
  runTimer : Option Nat
  slowTimer : Option Nat
  drive : DriveState
  deriving DecidableEq, Repr

/-! ### Bag Table (04_the_bag_table.md) -/

/-- The states of a live bag record (section 4.2). -/
inductive BagState where
  | inducting
  | unread
  | routed
  | armed
  | diverting
  deriving DecidableEq, Repr

/-- The lap qualifier of the next expected loop eye. -/
inductive Lap where
  | this
  | next
  deriving DecidableEq, Repr

/-- The next expected loop eye: its number and its lap qualifier. -/
structure ExpEye where
  eye : Nat
  lap : Lap
  deriving DecidableEq, Repr

/-- The target reasons, with the codes 0 to 8 of section 11.3. -/
inductive Reason where
  | noRead
  | noMatch
  | duplicate
  | ambiguous
  | closed
  | held
  | noRoute
  | oversize
  | recirc
  deriving DecidableEq, Repr

/-- Where a bag is meant to go (section 4.1). -/
inductive Target where
  | sort (cls : Nat)
  | stray (reason : Reason)
  | overflow (reason : Reason)
  deriving DecidableEq, Repr

/-- An owned tag code with its sailing index and the cabin's deck (R75). -/
structure Owned where
  code : TagCode
  sailing : Nat
  deck : Nat
  deriving DecidableEq, Repr

/-- A confirm deadline (R156): a belt position, or a remaining count of belt advance. -/
inductive Deadline where
  | position (p : Nat)
  | count (n : Int)
  deriving DecidableEq, Repr

/-- What an ARMED or DIVERTING record holds of its divert: the assigned chute, F, W and the deadline. The fire
queue's entry shows the same F, W and deadline (chapter 8): they are kept here, in one home. -/
structure Divert where
  chute : Nat
  fire : Nat
  window : Nat
  deadline : Deadline
  deriving DecidableEq, Repr

/-- A live bag record (section 4.1). -/
structure Bag where
  state : BagState
  station : Option Nat
  edge : Option Nat
  len : Option Nat
  recirc : Nat
  expEye : Option ExpEye
  misses : Nat
  uncertain : Bool
  oversize : Bool
  lastScan : List TagCode
  owned : Option Owned
  target : Option Target
  divert : Option Divert
  deriving DecidableEq, Repr

/-! ### Manifest Store (05_manifest_banks.md) -/

/-- A cabin record (R81). -/
structure Cabin where
  number : Nat
  deck : Nat
  zone : Nat
  expected : Nat
  override : Option Nat
  seen : SerialSet
  loaded : SerialSet
  done : Bool
  deriving DecidableEq, Repr

/-- The blank record of R80. -/
def blankCabin : Cabin :=
  { number := 0, deck := 0, zone := 0, expected := 0, override := some 0, seen := 0, loaded := 0, done := false }

/-- A bank (R80): 4096 positions, blank where not listed, and 160 map entries, NONE where not listed. -/
structure Bank where
  code : Nat
  count : Nat
  recs : Table Cabin
  map : Table (Option Nat)
  deriving DecidableEq, Repr

/-- A bank as power-on reset, DISCARD and ERASE leave it. -/
def emptyBank : Bank := { code := 0, count := 0, recs := [], map := [] }

/-- The carry-over walk of a COMMIT in flight (R89): the cursor, the carrying mark, the position the next step
takes, the positions found fresh so far, and the reply slot of the COMMIT. -/
structure Walk where
  cursor : Option Nat
  carrying : Bool
  next : Nat
  fresh : List Nat
  slot : Nat
  deriving DecidableEq, Repr

/-- The states of a sailing (R79). -/
inductive SailingState where
  | empty
  | opened
  | closed
  deriving DecidableEq, Repr

/-- A sailing record with its two banks and its commit engine (R79, R80). Commit busy is having a walk. -/
structure Sailing where
  state : SailingState
  code : Option Nat
  closedDecks : DeckSet
  locked : Bool
  walk : Option Walk
  active : Bank
  staging : Bank
  deriving DecidableEq, Repr

/-- A sailing as power-on reset leaves it (R79, R80). -/
def emptySailing : Sailing :=
  { state := .empty, code := none, closedDecks := 0, locked := false, walk := none,
    active := emptyBank, staging := emptyBank }

/-! ### Chute Allocator (07_chutes_and_cages.md) and Divert Timer (08_divert_timing.md) -/

/-- The role of a chute (R122). -/
inductive ChuteRole where
  | disabled
  | sort
  | stray
  | overflow
  deriving DecidableEq, Repr

/-- The mode of a chute (R122). -/
inductive ChuteMode where
  | pinned
  | pooled
  deriving DecidableEq, Repr

/-- The states of a cage (R133). -/
inductive CageState where
  | absent
  | opened
  | full
  deriving DecidableEq, Repr

/-- What made a cage FULL (R133). -/
inductive FullCause where
  | none
  | sensor
  | count
  deriving DecidableEq, Repr

/-- A cage record (R133). The known count is the length of the loaded list. -/
structure Cage where
  state : CageState
  id : Nat
  loaded : List TagCode
  unknown : Nat
  sensor : Bool
  cause : FullCause
  deriving DecidableEq, Repr

/-- The ABSENT cage record (R133). -/
def absentCage : Cage :=
  { state := .absent, id := 0, loaded := [], unknown := 0, sensor := false, cause := .none }

/-- A loaded chute record (R122) with its cage record. -/
structure Chute where
  role : ChuteRole
  mode : ChuteMode
  cls : Option Nat
  pos : Nat
  diverter : Nat
  takeaway : Option Nat
  profile : Nat
  leadTime : Nat
  margin : Nat
  armDist : Nat
  confirmDist : Nat
  capacity : Nat
  cageNode : Nat
  cage : Cage
  deriving DecidableEq, Repr

/-- An entry of the closed cage history (R142). -/
structure ClosedCage where
  chute : Nat
  id : Nat
  cls : Option Nat
  loaded : List TagCode
  unknown : Nat
  cause : FullCause
  deriving DecidableEq, Repr

/-- An entry of a fire queue (chapter 8): the bag record and, once fired, its firing rank. F, W and the
deadline stand in the bag record. -/
structure QEntry where
  bag : Nat
  rank : Option Nat
  deriving DecidableEq, Repr

/-! ### Player Bank (09_actuation_profiles_and_players.md) -/

/-- The hold of a segment (section 9.1). -/
inductive Hold where
  | time (ms : Nat)
  | window
  | trigger (line timeout : Nat)
  deriving DecidableEq, Repr

/-- A segment of a profile (section 9.1). The trigger-out set has bit n for line n. -/
structure Segment where
  level : Nat
  ramp : Nat
  hold : Hold
  outs : Byte
  deriving DecidableEq, Repr

/-- The modes of a player (R168). -/
inductive PlayerMode where
  | off
  | auto
  | direct
  | fault
  deriving DecidableEq, Repr

/-- The phase of a play, with the timer or the counts that end it (R167, R171). -/
inductive Phase where
  /-- RAMP: the ramp timer was started with ms. -/
  | ramp (ms : Nat)
  /-- HOLD of a TIME segment: the timer was started with ms. -/
  | time (ms : Nat)
  /-- HOLD of a WINDOW segment: window count m, window end, open length. -/
  | window (m windowEnd openLen : Nat)
  /-- HOLD of a TRIGGER segment: the line waited on, and the timeout's ms. -/
  | trigger (line ms : Nat)
  deriving DecidableEq, Repr

/-- A fire as a player takes it (R153): the profile, the window W and the margin Mg. -/
structure Fire where
  profile : Nat
  window : Nat
  margin : Nat
  deriving DecidableEq, Repr

/-- A play in progress (R167). -/
structure Play where
  fire : Fire
  seg : Nat
  phase : Phase
  deriving DecidableEq, Repr

/-- A player record (R167). The state is PLAYING when it holds a play and IDLE when it holds none. -/
structure Player where
  node : Option Nat
  actuator : Nat
  mode : PlayerMode
  level : Nat
  play : Option Play
  pending : Option Fire
  deriving DecidableEq, Repr

/-- A player as power-on reset leaves it (R178). The manual gives the actuator index of an empty map no value: 0, DESIGN
CHOICE (log 43). -/
def resetPlayer : Player :=
  { node := none, actuator := 0, mode := .off, level := 0, play := none, pending := none }

/-- The Player Bank: 16 profiles (empty where not listed), 40 players, and 8 trigger lines, each clear or
pending with its setter. -/
structure Players where
  profiles : Table (List Segment)
  players : Table Player
  lines : Table (Option Nat)
  deriving DecidableEq, Repr

/-! ### Stray Unit (10_strays_and_manual_encoding.md) -/

/-- A stray entry (R180). It is KEYED when it holds a keyed code and WAITING when it holds none. -/
structure StrayEntry where
  slot : Nat
  reason : Reason
  codes : List TagCode
  len : Nat
  keyed : Option Owned
  deriving DecidableEq, Repr

/-- The Stray Unit's state (chapter 10). The keyed order names KEYED entries by slot. -/
structure Strays where
  entries : List StrayEntry
  keyedOrder : List Nat
  nextSlot : Nat
  deriving DecidableEq, Repr

/-! ### Management Unit (11_management_requests_and_reports.md) -/

/-- What every disposition report carries of the freed record (R198). -/
structure Disposed where
  index : Nat
  owned : Option TagCode
  target : Option Target
  recirc : Nat
  deriving DecidableEq, Repr

/-- The reports (R198). STRAYED names its chute, as R164 has it of every report made at a confirmation; its row of R198
gives the chute no byte (log 36). -/
inductive Report where
  | loaded (d : Disposed) (chute cageId : Nat) (held extra : Bool)
  | loose (d : Disposed) (chute : Nat)
  | strayed (d : Disposed) (chute slot : Nat) (codes : List TagCode)
  | overflowed (d : Disposed) (chute : Nat)
  | lost (d : Disposed) (edge : Nat)
  | noShow (d : Disposed) (station : Option Nat)
  | cageFull (chute cageId : Nat) (cls : Option Nat) (known : Nat) (cause : FullCause)
  | cageClosed (chute cageId : Nat) (cls : Option Nat) (known unknown : Nat)
  | cabinDone (sailing cabin expected chute cageId : Nat)
  | playerFault (player : Nat) (chute : Option Nat) (profile seg line : Nat)
  | track (blind : Bool)
  | drive (fault : Bool)
  deriving DecidableEq, Repr

/-- The 16 snapshot counters (R197), in the order of the snapshot. -/
structure Counters where
  inducted : Nat
  loaded : Nat
  strayed : Nat
  overflowed : Nat
  loose : Nat
  lost : Nat
  noShows : Nat
  ghosts : Nat
  unattached : Nat
  misreads : Nat
  stale : Nat
  overspeed : Nat
  missedDiverts : Nat
  lineErrors : Nat
  transitDrops : Nat
  unknownSources : Nat
  deriving DecidableEq, Repr

/-- Every counter at 0. -/
def zeroCounters : Counters :=
  { inducted := 0, loaded := 0, strayed := 0, overflowed := 0, loose := 0, lost := 0, noShows := 0, ghosts := 0,
    unattached := 0, misreads := 0, stale := 0, overspeed := 0, missedDiverts := 0, lineErrors := 0,
    transitDrops := 0, unknownSources := 0 }

/-- A RESTART in flight (R199): its reply slot, and where the sweep of R102 stands: the sailing and the position
the next sweep step takes, or none when the sweep of both ACTIVE banks is done. -/
structure Restarting where
  slot : Nat
  sweep : Option (Nat × Nat)
  deriving DecidableEq, Repr

/-- The Management Unit's state (chapter 11). -/
structure Mgmt where
  /-- the report queue, oldest first, at most 64 -/
  reports : List Report
  counters : Counters
  sortHold : Bool
  reportLost : Bool
  restart : Option Restarting
  deriving DecidableEq, Repr

/-! ### The whole part -/

/-- The state of the Offing 3840. -/
structure State where
  /-- the model's own: the commands that wait, first in, first out -/
  pending : List Instr
  /-- the model's own: how many choices between two orders have been taken (Config.choice) -/
  choices : Nat
  /-- the RESETN pin is low -/
  resetLow : Bool
  line : Line
  /-- the Node Table, 64 entries, empty where not listed -/
  nodes : Table (Option NodeEntry)
  tracker : Tracker
  gate : Gate
  /-- the Bag Table, 512 records, free where not listed -/
  bags : Table (Option Bag)
  /-- the seven loop-eye measurements, none where not listed -/
  loopMeas : Table (Option Measure)
  sailing0 : Sailing
  sailing1 : Sailing
  /-- the hold list, oldest first, at most 32 -/
  holds : List TagCode
  /-- the chute records, 32, empty where not listed -/
  chutes : Table (Option Chute)
  /-- the closed cage history, newest first, at most 8 -/
  closedCages : List ClosedCage
  /-- the fire queues, one per chute, empty where not listed -/
  queues : Table (List QEntry)
  players : Players
  strays : Strays
  mgmt : Mgmt
  deriving DecidableEq, Repr

/-- The reasons a step stops with a fault. There is none: every command of the part is a step that goes on to a
next state, and a command the part does not act on leaves it as it stands. -/
inductive Fault where
  deriving DecidableEq, Repr

/-- The reasons a step is refused. -/
inductive Refusal where
  /-- A command with no meaning in the model. No arm of exec answers it. Safe: the model stops where the part
  goes on. -/
  | notModelled (mnemonic : String)
  deriving DecidableEq, Repr

/-- The Line Interface after power-on reset with the straps reading addr (R1, R13, R16). -/
def resetLine (addr : Nat) : Line :=
  { nodeAddr := addr, transit := [], control := [], slots := [], readyOrder := [], runCount := 0,
    controlOverrun := false, sending := none }

/-- The Loop Tracker after power-on reset (R23). -/
def resetTracker : Tracker :=
  { cfg := none, pos := 0, debt := 0, speed := 0, expected := none, history := [], state := .notReady,
    clean := 0, silence := false }

/-- The Induction Gate after power-on reset (R57). -/
def resetGate : Gate :=
  { slots := [], pointer := 0, inFlight := none, entryMeas := none, speed := .standby, runTimer := none,
    slowTimer := none, drive := .unknown }

/-- The part after power-on reset, its straps reading addr, with nothing waiting. -/
def powerOn (addr : Nat) : State :=
  { pending := [], choices := 0, resetLow := false,
    line := resetLine addr,
    nodes := [],
    tracker := resetTracker,
    gate := resetGate,
    bags := [], loopMeas := [],
    sailing0 := emptySailing, sailing1 := emptySailing,
    holds := [],
    chutes := [], closedCages := [], queues := [],
    players := { profiles := [], players := [], lines := [] },
    strays := { entries := [], keyedOrder := [], nextSlot := 0 },
    mgmt := { reports := [], counters := zeroCounters, sortHold := false, reportLost := false, restart := none } }

/-- The part right after power-on reset. The straps read node address 9, the address of the part in the worked
sequence of section 1.7: DESIGN CHOICE (log 1), the manual gives the straps no value. -/
def State.reset : State := powerOn 9

end Sys2Proof.Machine
end

