-- ==== Sys2Proof/Machine/Operands.lean ====
section
/-! DEFINITION. The operand forms of the sort line (section 1.8): bytes and multi-byte fields, the frame check, frames,
tag codes, the payloads of field frames, and the payloads of the frames the part builds. -/

namespace Sys2Proof.Machine

/-! ### Bytes -/

/-- The low eight bits of a number. -/
def byteOf (n : Nat) : Byte := BitVec.ofNat 8 n

/-- A two-byte field, most significant byte first (section 5 of 00_scope.md). -/
def be16 (n : Nat) : List Byte := [byteOf (n / 256), byteOf n]

/-- A four-byte field, most significant byte first. -/
def be32 (n : Nat) : List Byte := [byteOf (n / 16777216), byteOf (n / 65536), byteOf (n / 256), byteOf n]

/-- The number in a two-byte field. -/
def nat16 (hi lo : Byte) : Nat := hi.toNat * 256 + lo.toNat

/-- The number in a four-byte field. -/
def nat32 (a b c d : Byte) : Nat := ((a.toNat * 256 + b.toNat) * 256 + c.toNat) * 256 + d.toNat

/-- A flag as a byte: 1 set, 0 clear. -/
def flagByte (b : Bool) : Byte := if b then 1 else 0

/-- A one-byte field that may be absent: 0xFF when it is (section 11.3). -/
def optByte (o : Option Nat) : Byte := match o with | some n => byteOf n | none => 0xFF

/-- A two-byte field that may be absent: 0xFFFF when it is (section 11.3). -/
def optBe16 (o : Option Nat) : List Byte := match o with | some n => be16 n | none => [0xFF, 0xFF]

/-- The four bytes of a tag code. -/
def codeBytes (c : TagCode) : List Byte := be32 c.toNat

/-- A tag code that may be absent: 0 when it is (section 11.3). -/
def optCodeBytes (o : Option TagCode) : List Byte := match o with | some c => codeBytes c | none => be32 0

/-- The tag code in four bytes. -/
def codeOf (a b c d : Byte) : TagCode := BitVec.ofNat 32 (nat32 a b c d)

/-! ### The frame check (section 1.2) -/

/-- One bit into the check register: generator x^16 + x^12 + x^5 + 1. -/
def crcBit (c : BitVec 16) (b : Bool) : BitVec 16 :=
  if c.msb != b then (c <<< 1) ^^^ 0x1021#16 else c <<< 1

/-- One byte into the check register, most significant bit first. -/
def crcByte (c : BitVec 16) (b : Byte) : BitVec 16 :=
  (List.range 8).foldl (fun c i => crcBit c (b.getMsbD i)) c

/-- The check of a header and payload: preset to all ones, no reflection, no final inversion. -/
def crc16 (bs : List Byte) : BitVec 16 := bs.foldl crcByte 0xFFFF#16

/-! ### Frames (section 1.8) -/

/-- A frame's header fields and payload. -/
structure RawFrame where
  dest : Nat
  src : Nat
  kind : Nat
  payload : List Byte
  deriving DecidableEq, Repr

/-- The bytes of a frame: header, payload, check high byte first. -/
def frameBytes (f : RawFrame) : List Byte :=
  let h := [byteOf f.dest, byteOf f.src, byteOf f.kind, byteOf f.payload.length] ++ f.payload
  h ++ be16 (crc16 h).toNat

/-- The tests of R2 on the bytes received: none when the frame is bad. -/
def parseFrame (bytes : List Byte) : Option RawFrame :=
  match bytes with
  | d :: s :: k :: n :: rest =>
    if n.toNat ≤ 60 ∧ rest.length = n.toNat + 2 ∧
        be16 (crc16 (d :: s :: k :: n :: rest.take n.toNat)).toNat = rest.drop n.toNat then
      some { dest := d.toNat, src := s.toNat, kind := k.toNat, payload := rest.take n.toNat }
    else none
  | _ => none

/-! ### Tag codes (R17) -/

/-- The sailing code of a tag code, bits 31 to 24. -/
def sailingField (c : TagCode) : Nat := (c.extractLsb' 24 8).toNat

/-- The cabin number of a tag code, bits 23 to 8. -/
def cabinField (c : TagCode) : Nat := (c.extractLsb' 8 16).toNat

/-- The bag serial of a tag code, bits 7 to 4. -/
def serialField (c : TagCode) : Nat := (c.extractLsb' 4 4).toNat

/-- The check nibble of a tag code, bits 3 to 0. -/
def checkField (c : TagCode) : Nat := (c.extractLsb' 0 4).toNat

/-- The sum of the seven nibbles above the check nibble. -/
def nibbleSum (c : TagCode) : Nat :=
  (c.extractLsb' 4 4).toNat + (c.extractLsb' 8 4).toNat + (c.extractLsb' 12 4).toNat + (c.extractLsb' 16 4).toNat +
    (c.extractLsb' 20 4).toNat + (c.extractLsb' 24 4).toNat + (c.extractLsb' 28 4).toNat

/-- The tag code rule of R17: well-formed, as opposed to a misread. -/
def wellFormedCode (c : TagCode) : Bool :=
  decide (1 ≤ sailingField c) && decide (sailingField c ≤ 254) &&
  decide (1 ≤ cabinField c) && decide (cabinField c ≤ 65534) &&
  decide (1 ≤ serialField c) && decide (checkField c = nibbleSum c % 16)

/-- The well-formed tag code of a sailing code, a cabin number and a serial (R92, step 1). -/
def makeCode (sailing cabin serial : Nat) : TagCode :=
  let body := BitVec.ofNat 32 (sailing * 16777216 + cabin * 256 + serial * 16)
  body + BitVec.ofNat 32 (nibbleSum body % 16)

/-! ### Sets of serials and of decks -/

/-- The set holding one serial. -/
def serialBit (n : Nat) : SerialSet := 1#16 <<< n

/-- Whether a serial is in a set. -/
def hasSerial (s : SerialSet) (n : Nat) : Bool := s.getLsbD n

/-- How many serials a set holds. -/
def serialCount (s : SerialSet) : Nat := (List.range 16).countP (fun n => s.getLsbD n)

/-- The set holding one deck. -/
def deckBit (d : Nat) : DeckSet := 1#24 <<< (d - 1)

/-- Whether a deck is in a closed-deck set. -/
def hasDeck (s : DeckSet) (d : Nat) : Bool := decide (1 ≤ d) && s.getLsbD (d - 1)

/-- Every deck, 1 to 20. -/
def allDecks : DeckSet := 0x0FFFFF#24

/-! ### Field frames -/

/-- A CAGE event (section 1.8). -/
inductive CageEvent where
  | present (id : Nat)
  | fullOn
  | fullOff
  | removed
  deriving DecidableEq, Repr

/-- What a field frame says, once its payload has the length its kind requires and every enumerated field
holds a defined value (R6, third test). -/
inductive FieldMsg where
  | track (seq : Nat) (delta : Int)
  | eye (idx : Nat) (edge : Edge) (stamp : Nat)
  | scan (stamp : Nat) (codes : List TagCode)
  | induct (idx : Nat)
  | keyin (slot : BitVec 16) (code : Option TagCode)
  | hold (code : TagCode) (release : Bool)
  | cage (event : CageEvent)
  | drive (ready : Bool)
  deriving DecidableEq, Repr

/-- The kinds of field frame. -/
inductive FieldKind where
  | track
  | eye
  | scan
  | induct
  | keyin
  | hold
  | cage
  | drive
  deriving DecidableEq, Repr

/-- The kind of a field message. -/
def fieldKindOf : FieldMsg → FieldKind
  | .track _ _ => .track
  | .eye _ _ _ => .eye
  | .scan _ _ => .scan
  | .induct _ => .induct
  | .keyin _ _ => .keyin
  | .hold _ _ => .hold
  | .cage _ => .cage
  | .drive _ => .drive

/-- The frame kind codes a field node may send (section 1.8). -/
def fieldKindOfCode (k : Nat) : Option FieldKind :=
  if k = 0x10 then some .track
  else if k = 0x11 then some .eye
  else if k = 0x12 then some .scan
  else if k = 0x13 then some .induct
  else if k = 0x14 then some .keyin
  else if k = 0x15 then some .hold
  else if k = 0x16 then some .cage
  else if k = 0x17 then some .drive
  else none

/-- The code of a field frame kind. -/
def fieldKindCode : FieldKind → Nat
  | .track => 0x10
  | .eye => 0x11
  | .scan => 0x12
  | .induct => 0x13
  | .keyin => 0x14
  | .hold => 0x15
  | .cage => 0x16
  | .drive => 0x17

/-- The tag codes in a run of bytes, four bytes each: none when the bytes are not whole codes. -/
def codesOf : List Byte → Option (List TagCode)
  | [] => some []
  | a :: b :: c :: d :: rest => (codesOf rest).map (codeOf a b c d :: ·)
  | _ => none

/-- The third test of R6: the payload of a field frame of the kind, or none when its length is not the one
the kind requires or an enumerated field holds no defined value. -/
def parseField (k : FieldKind) (p : List Byte) : Option FieldMsg :=
  match k, p with
  | .track, [q, h, l] => some (.track q.toNat (h ++ l).toInt)
  | .eye, [i, e, q] =>
    if e.toNat = 0 then some (.eye i.toNat .block q.toNat)
    else if e.toNat = 1 then some (.eye i.toNat .clear q.toNat)
    else none
  | .scan, q :: n :: rest =>
    match codesOf rest with
    | some cs => if n.toNat ≤ 4 ∧ cs.length = n.toNat then some (.scan q.toNat cs) else none
    | none => none
  | .induct, [i] => some (.induct i.toNat)
  | .keyin, [h, l, r, a, b, c, d] =>
    if r.toNat = 0 then some (.keyin (h ++ l) (some (codeOf a b c d)))
    else if r.toNat = 1 then some (.keyin (h ++ l) none)
    else none
  | .hold, [a, b, c, d, x] =>
    if x.toNat = 0 then some (.hold (codeOf a b c d) false)
    else if x.toNat = 1 then some (.hold (codeOf a b c d) true)
    else none
  | .cage, [e, h, l] =>
    if e.toNat = 0 then some (.cage (.present (nat16 h l)))
    else if e.toNat = 1 then some (.cage .fullOn)
    else if e.toNat = 2 then some (.cage .fullOff)
    else if e.toNat = 3 then some (.cage .removed)
    else none
  | .drive, [x] =>
    if x.toNat = 0 then some (.drive true)
    else if x.toNat = 1 then some (.drive false)
    else none
  | _, _ => none

/-- The payload of a field frame that says m, as the layouts of section 1.8 give it. -/
def fieldPayload : FieldMsg → List Byte
  | .track q d => byteOf q :: be16 (BitVec.ofInt 16 d).toNat
  | .eye i e q => [byteOf i, match e with | .block => 0 | .clear => 1, byteOf q]
  | .scan q cs => byteOf q :: byteOf cs.length :: cs.flatMap codeBytes
  | .induct i => [byteOf i]
  | .keyin s (some c) => be16 s.toNat ++ [0] ++ codeBytes c
  | .keyin s none => be16 s.toNat ++ [1] ++ be32 0
  | .hold c r => codeBytes c ++ [flagByte r]
  | .cage (.present i) => 0 :: be16 i
  | .cage .fullOn => [1, 0, 0]
  | .cage .fullOff => [2, 0, 0]
  | .cage .removed => [3, 0, 0]
  | .drive r => [flagByte (!r)]

/-! ### Codes of the enumerated fields the part sends -/

/-- The code of a speed state in SPEED frames, the status summary and the snapshot. -/
def speedCode : SpeedState → Nat
  | .standby => 0
  | .slow => 1
  | .run => 2

/-- The code of a CAGESIG. -/
def cageSigCode : CageSig → Nat
  | .loading => 0
  | .full => 1
  | .closed => 2

/-- The code of a KEYIN_ACK status (R187). -/
def keyinStatusCode : KeyinStatus → Nat
  | .accepted => 0
  | .already => 1
  | .rejected => 2
  | .noSlot => 3
  | .badCode => 4
  | .noMatch => 5
  | .duplicate => 6

/-- The code of a HOLD_ACK status (R118). -/
def holdStatusCode : HoldStatus → Nat
  | .held => 0
  | .already => 1
  | .full => 2
  | .released => 3
  | .notHeld => 4
  | .badCode => 5

/-- The code of a reply status (section 1.8). -/
def statusCode : Status → Nat
  | .ok => 0
  | .busy => 1
  | .state => 2
  | .range => 3
  | .order => 4
  | .checksum => 5
  | .conflict => 6
  | .locked => 7
  | .abandoned => 8
  | .badKind => 9

/-- The code of a target reason (section 11.3). -/
def reasonCode : Reason → Nat
  | .noRead => 0
  | .noMatch => 1
  | .duplicate => 2
  | .ambiguous => 3
  | .closed => 4
  | .held => 5
  | .noRoute => 6
  | .oversize => 7
  | .recirc => 8

/-- The two bytes of a target (section 11.3). The second byte of the kind none is a free value. -/
def targetBytes : Option Target → List Byte
  | none => [0, Config.targetNoneByte]
  | some (.sort c) => [1, byteOf c]
  | some (.stray r) => [2, byteOf (reasonCode r)]
  | some (.overflow r) => [3, byteOf (reasonCode r)]

/-- The code of a full cause (section 11.3). -/
def causeCode : FullCause → Nat
  | .none => 0
  | .sensor => 1
  | .count => 2

/-- The code of a cage state (section 11.3). -/
def cageStateCode : CageState → Nat
  | .absent => 0
  | .opened => 1
  | .full => 2

/-- The code of a sailing state (section 11.3). -/
def sailingStateCode : SailingState → Nat
  | .empty => 0
  | .opened => 1
  | .closed => 2

/-- The code of a track state (section 11.4). -/
def trackStateCode : TrackState → Nat
  | .notReady => 0
  | .tracking => 1
  | .blind => 2

/-! ### The frames the part builds (R11) -/

/-- The kind code of a control frame. -/
def ctrlKind : CtrlMsg → Nat
  | .level _ _ _ => 0x20
  | .speed _ => 0x21
  | .gate _ _ => 0x22
  | .cagesig _ => 0x23
  | .keyinAck _ _ => 0x24
  | .holdAck _ _ => 0x25

/-- The payload of a control frame. -/
def ctrlPayload : CtrlMsg → List Byte
  | .level a t r => byteOf a :: byteOf t :: be16 r
  | .speed v => [byteOf (speedCode v)]
  | .gate i p => [byteOf i, flagByte p]
  | .cagesig g => [byteOf (cageSigCode g)]
  | .keyinAck s st => be16 s.toNat ++ [byteOf (keyinStatusCode st)]
  | .holdAck c st => codeBytes c ++ [byteOf (holdStatusCode st)]

/-- The bytes of a control frame sent by the part at address addr. -/
def ctrlBytes (addr : Nat) (f : CtrlFrame) : List Byte :=
  frameBytes { dest := f.dest, src := addr, kind := ctrlKind f.msg, payload := ctrlPayload f.msg }

/-- The payload of a reply (section 1.8). -/
def replyPayload (r : Reply) : List Byte :=
  [r.tag, r.kind, byteOf (statusCode r.status), r.summary] ++ r.results

/-- The bytes of a reply, sent to node 0. -/
def replyBytes (addr : Nat) (r : Reply) : List Byte :=
  frameBytes { dest := 0, src := addr, kind := 0x31, payload := replyPayload r }

/-- The four fields that open every disposition report (R198). -/
def disposedBytes (d : Disposed) : List Byte :=
  be16 d.index ++ optCodeBytes d.owned ++ targetBytes d.target ++ [byteOf d.recirc]

/-- The payload of a report (R198). An absent field shows as in a query result, 0xFF for a byte and 0 for a tag code:
DEDUCED (log 35). STRAYED sends the fields of its row of R198, which give its chute no byte: DEDUCED (log 36). Bits 7 to 2 of
the flags byte of LOADED are a free value (log 41). -/
def reportPayload : Report → List Byte
  | .loaded d c i h x => 1 :: disposedBytes d ++ byteOf c :: be16 i ++ [byteOf (h.toNat + 2 * x.toNat + 4 * Config.loadedFlagSpareBits.toNat)]
  | .loose d c => 2 :: disposedBytes d ++ [byteOf c]
  | .strayed d _ n cs => 3 :: disposedBytes d ++ be16 n ++ byteOf cs.length :: cs.flatMap codeBytes
  | .overflowed d c => 4 :: disposedBytes d ++ [byteOf c]
  | .lost d e => 5 :: disposedBytes d ++ be16 e
  | .noShow d st => 6 :: disposedBytes d ++ [optByte st]
  | .cageFull c i k n w => 7 :: byteOf c :: be16 i ++ [optByte k, byteOf n, byteOf (causeCode w)]
  | .cageClosed c i k n u => 8 :: byteOf c :: be16 i ++ [optByte k, byteOf n, byteOf u]
  | .cabinDone g b e c i => 9 :: byteOf g :: be16 b ++ [byteOf e, byteOf c] ++ be16 i
  | .playerFault p c f g l => [10, byteOf p, optByte c, byteOf f, byteOf g, byteOf l]
  | .track b => [11, if b then 2 else 1]
  | .drive f => [12, flagByte f]

/-- The bytes of a report, sent to node 0. -/
def reportBytes (addr : Nat) (r : Report) : List Byte :=
  frameBytes { dest := 0, src := addr, kind := 0x32, payload := reportPayload r }

end Sys2Proof.Machine
end

