-- ==== Sys2Proof/Machine/Flags.lean ====
section
/-! DEFINITION. The status summary byte (section 1.8, R19), the snapshot counters (R197) and the two sticky flags. -/

namespace Sys2Proof.Machine

/-- The names of the 16 snapshot counters (R197). -/
inductive Counter where
  | inducted
  | loaded
  | strayed
  | overflowed
  | loose
  | lost
  | noShows
  | ghosts
  | unattached
  | misreads
  | stale
  | overspeed
  | missedDiverts
  | lineErrors
  | transitDrops
  | unknownSources
  deriving DecidableEq, Repr

/-- One more, stopping at 65535 (R197). -/
def satInc (n : Nat) : Nat := min 65535 (n + 1)

/-- One counter increased by one. -/
def bumpCounters (c : Counter) (k : Counters) : Counters :=
  match c with
  | .inducted => { k with inducted := satInc k.inducted }
  | .loaded => { k with loaded := satInc k.loaded }
  | .strayed => { k with strayed := satInc k.strayed }
  | .overflowed => { k with overflowed := satInc k.overflowed }
  | .loose => { k with loose := satInc k.loose }
  | .lost => { k with lost := satInc k.lost }
  | .noShows => { k with noShows := satInc k.noShows }
  | .ghosts => { k with ghosts := satInc k.ghosts }
  | .unattached => { k with unattached := satInc k.unattached }
  | .misreads => { k with misreads := satInc k.misreads }
  | .stale => { k with stale := satInc k.stale }
  | .overspeed => { k with overspeed := satInc k.overspeed }
  | .missedDiverts => { k with missedDiverts := satInc k.missedDiverts }
  | .lineErrors => { k with lineErrors := satInc k.lineErrors }
  | .transitDrops => { k with transitDrops := satInc k.transitDrops }
  | .unknownSources => { k with unknownSources := satInc k.unknownSources }

/-- The counters in the order of the snapshot, two bytes each (R197). -/
def counterBytes (k : Counters) : List Byte :=
  be16 k.inducted ++ be16 k.loaded ++ be16 k.strayed ++ be16 k.overflowed ++ be16 k.loose ++ be16 k.lost ++
    be16 k.noShows ++ be16 k.ghosts ++ be16 k.unattached ++ be16 k.misreads ++ be16 k.stale ++ be16 k.overspeed ++
    be16 k.missedDiverts ++ be16 k.lineErrors ++ be16 k.transitDrops ++ be16 k.unknownSources

/-- COMMIT_BUSY: either sailing walks a commit (R19, R103). -/
def commitBusy (s : State) : Bool := s.sailing0.walk.isSome || s.sailing1.walk.isSome

/-- The status summary byte as it stands (section 1.8, R19). -/
def statusSummary (s : State) : Byte :=
  byteOf (128 * s.tracker.cfg.isSome.toNat + 64 * (commitBusy s).toNat + 32 * s.mgmt.sortHold.toNat +
    16 * (decide (s.tracker.state = .blind)).toNat + 8 * s.mgmt.reportLost.toNat +
    4 * s.line.controlOverrun.toNat + speedCode s.gate.speed)

/-- A counter of the part increased by one. -/
def bump (c : Counter) (s : State) : State :=
  { s with mgmt := { s.mgmt with counters := bumpCounters c s.mgmt.counters } }

/-- REPORT_LOST and CONTROL_OVERRUN cleared, as a SNAPSHOT clears them (R197, step 3). -/
def clearSticky (s : State) : State :=
  { s with mgmt := { s.mgmt with reportLost := false }, line := { s.line with controlOverrun := false } }

end Sys2Proof.Machine
end

