-- ==== Sys2Proof/Machine/Ops.lean ====
section
/-! DEFINITION. The named operations over the part's state: numbered tables, the records of each block, the queues of
the Line Interface, the report queue, reply slots, the LINE OUT arbiter, and the choice between two orders. -/

namespace Sys2Proof.Machine

/-! ### Numbered tables -/

/-- The contents at a number: the blank contents d where the number is not listed. -/
def tableGet {α : Type} (d : α) : Table α → Nat → α
  | [], _ => d
  | (j, v) :: r, i => if j = i then v else tableGet d r i

/-- The table with v at number i: listed in rising order, and not listed when v is the blank contents. -/
def tablePut {α : Type} [DecidableEq α] (d : α) : Table α → Nat → α → Table α
  | [], i, v => if v = d then [] else [(i, v)]
  | (j, w) :: r, i, v =>
    if i < j then (if v = d then (j, w) :: r else (i, v) :: (j, w) :: r)
    else if i = j then (if v = d then r else (i, v) :: r)
    else (j, w) :: tablePut d r i v

/-- The canonical form of a table: strictly rising numbers, no entry with the blank contents. -/
abbrev TableWf {α : Type} (d : α) (t : Table α) : Prop :=
  (t.map Prod.fst).Pairwise (· < ·) ∧ ∀ e ∈ t, e.2 ≠ d

/-! ### Records of the blocks -/

/-- The bag record i, if live. -/
def bagAt (s : State) (i : Nat) : Option Bag := tableGet none s.bags i

/-- Bag record i replaced, or freed. -/
def setBag (i : Nat) (b : Option Bag) (s : State) : State := { s with bags := tablePut none s.bags i b }

/-- Bag record i changed, if live. -/
def modifyBag (i : Nat) (f : Bag → Bag) (s : State) : State :=
  match bagAt s i with
  | some b => setBag i (some (f b)) s
  | none => s

/-- The live bag records in index order. -/
def liveBags (s : State) : List (Nat × Bag) :=
  s.bags.filterMap fun (i, o) => o.map fun b => (i, b)

/-- The number of live records. -/
def liveCount (s : State) : Nat := (liveBags s).length

/-- The number of live records in one state (R78). -/
def stateCount (s : State) (st : BagState) : Nat := (liveBags s).countP fun (_, b) => decide (b.state = st)

/-- The lowest-numbered free index (R59), if one of the 512 is free. -/
def freeIndex (s : State) : Option Nat := (List.range 512).find? fun i => (bagAt s i).isNone

/-- The chute record c, if loaded. -/
def chuteAt (s : State) (c : Nat) : Option Chute := tableGet none s.chutes c

/-- Chute record c replaced. -/
def setChute (c : Nat) (r : Chute) (s : State) : State := { s with chutes := tablePut none s.chutes c (some r) }

/-- Chute record c changed, if loaded. -/
def modifyChute (c : Nat) (f : Chute → Chute) (s : State) : State :=
  match chuteAt s c with
  | some r => setChute c (f r) s
  | none => s

/-- The fire queue of chute c. -/
def queueAt (s : State) (c : Nat) : List QEntry := tableGet [] s.queues c

/-- The fire queue of chute c replaced. -/
def setQueue (c : Nat) (q : List QEntry) (s : State) : State := { s with queues := tablePut [] s.queues c q }

/-- The committed count of chute c: the number of bags in its fire queue (R125). -/
def committed (s : State) (c : Nat) : Nat := (queueAt s c).length

/-- Player record p. -/
def playerAt (s : State) (p : Nat) : Player := tableGet resetPlayer s.players.players p

/-- Player record p replaced. -/
def setPlayer (p : Nat) (r : Player) (s : State) : State :=
  { s with players := { s.players with players := tablePut resetPlayer s.players.players p r } }

/-- Profile n: its segments, none when it is empty. -/
def profileAt (s : State) (n : Nat) : List Segment := tableGet [] s.players.profiles n

/-- The setter of trigger line l while it is pending. -/
def lineAt (s : State) (l : Nat) : Option Nat := tableGet none s.players.lines l

/-- Trigger line l made pending with a setter, or cleared. -/
def setLine (l : Nat) (o : Option Nat) (s : State) : State :=
  { s with players := { s.players with lines := tablePut none s.players.lines l o } }

/-- The sailing of an index, 0 or 1. -/
def sailingAt (s : State) (i : Nat) : Sailing := if i = 0 then s.sailing0 else s.sailing1

/-- The sailing of an index replaced. -/
def setSailing (i : Nat) (g : Sailing) (s : State) : State :=
  if i = 0 then { s with sailing0 := g } else { s with sailing1 := g }

/-- The tracker's state changed. -/
def withTracker (f : Tracker → Tracker) (s : State) : State := { s with tracker := f s.tracker }

/-- The gate's state changed. -/
def withGate (f : Gate → Gate) (s : State) : State := { s with gate := f s.gate }

/-- The loop length, while a configuration is loaded. -/
def loopLen (s : State) : Nat := match s.tracker.cfg with | some c => c.len | none => 0

/-- The downstream distance from position a to position b on a loop of length l (section 5 of 00_scope.md). -/
def downstream (l a b : Nat) : Nat := (b + l - a % l) % l

/-! ### Choice between two orders -/

/-- A choice among n things that may be taken in either order: the number of the one taken first, and the
state with the choice counted. With fewer than two things there is nothing to choose. -/
def pick (n : Nat) (s : State) : Nat × State :=
  if n < 2 then (0, s) else (Config.choice s.choices % n, { s with choices := s.choices + 1 })

/-! ### Queues of the Line Interface and the report queue -/

/-- A control frame appended to the control queue, or dropped with CONTROL_OVERRUN set (R12). -/
def lineControl (f : CtrlFrame) (l : Line) : Line :=
  if l.control.length < 32 then { l with control := l.control ++ [f] } else { l with controlOverrun := true }

/-- A control frame appended to the part's control queue. -/
def pushControl (f : CtrlFrame) (s : State) : State := { s with line := lineControl f s.line }

/-- A frame appended to the transit queue of a line that has room for it. -/
def lineTransit (f : List Byte) (l : Line) : Line :=
  if l.transit.length < 32 then { l with transit := l.transit ++ [f] } else l

/-- A frame placed at the tail of the transit queue, or dropped and counted (R3, R14). -/
def pushTransit (f : List Byte) (s : State) : State :=
  if s.line.transit.length < 32 then { s with line := lineTransit f s.line } else bump .transitDrops s

/-- A report appended to the report queue, or dropped with REPORT_LOST set (R198). -/
def mgmtReport (r : Report) (m : Mgmt) : Mgmt :=
  if m.reports.length < 64 then { m with reports := m.reports ++ [r] } else { m with reportLost := true }

/-- A report queued by the part. -/
def pushReport (r : Report) (s : State) : State := { s with mgmt := mgmtReport r s.mgmt }

/-! ### Reply slots (R13) -/

/-- The lowest-numbered FREE reply slot: DESIGN CHOICE (log 11). -/
def freeSlot (l : Line) : Option Nat :=
  (List.range 4).find? fun i => decide (tableGet Slot.free l.slots i = .free)

/-- A FREE slot claimed by a request, becoming EXECUTING. -/
def claimSlot (i : Nat) (tag kind : Byte) (s : State) : State :=
  { s with line := { s.line with slots := tablePut .free s.line.slots i (.executing tag kind) } }

/-- The slot's reply built with the status, the results and the status summary byte as it stands; the slot
becomes READY behind those READY before it. A slot that is not EXECUTING takes no reply. -/
def buildReply (i : Nat) (st : Status) (results : List Byte) (s : State) : State :=
  match tableGet Slot.free s.line.slots i with
  | .executing tag kind =>
    { s with line :=
      { s.line with
        slots := tablePut .free s.line.slots i
          (.ready { tag := tag, kind := kind, status := st, summary := statusSummary s, results := results }),
        readyOrder := s.line.readyOrder ++ [i] } }
  | _ => s

/-! ### The LINE OUT arbiter (R15, R16) -/

/-- Management traffic is waiting: a reply slot is READY or the report queue is not empty. -/
def mgmtWaiting (s : State) : Bool := !s.line.readyOrder.isEmpty || !s.mgmt.reports.isEmpty

/-- The bytes of the reply in a READY slot. -/
def slotBytes (l : Line) (i : Nat) : List Byte :=
  match tableGet Slot.free l.slots i with
  | .ready r => replyBytes l.nodeAddr r
  | _ => []

/-- A frame begun on LINE OUT, with the transit run count as the sending leaves it (R16). -/
def beginSend (src : TxSource) (bytes : List Byte) (run : Nat) (s : State) : State :=
  { s with line := { s.line with sending := some { source := src, bytes := bytes }, runCount := run } }

/-- Step 3 of R15: the earliest-READY reply, and otherwise the head of the report queue. -/
def sendMgmt (s : State) : State :=
  match s.line.readyOrder, s.mgmt.reports with
  | i :: _, _ => beginSend (.reply i) (slotBytes s.line i) 0 s
  | [], r :: _ => beginSend .report (reportBytes s.line.nodeAddr r) 0 s
  | [], [] => s

/-- The arbiter's choice when LINE OUT is idle (R15), and the run count it leaves (R16). -/
def arbiterChoice (s : State) : State :=
  match s.line.control, s.line.transit with
  | f :: _, _ => beginSend .control (ctrlBytes s.line.nodeAddr f) s.line.runCount s
  | [], t :: _ =>
    if mgmtWaiting s then
      if s.line.runCount < 8 then beginSend .transit t (s.line.runCount + 1) s else sendMgmt s
    else beginSend .transit t 0 s
  | [], [] => sendMgmt s

/-- LINE OUT, when it is idle with a frame waiting and RESETN is high, takes up the frame the arbiter chooses. -/
def kickLineOut (s : State) : State :=
  if s.resetLow || s.line.sending.isSome then s else arbiterChoice s

/-- The frame whose last byte has been sent leaves its queue or slot (R11, R13). -/
def leaveSource (src : TxSource) (s : State) : State :=
  match src with
  | .control => { s with line := { s.line with control := s.line.control.tail, sending := none } }
  | .transit => { s with line := { s.line with transit := s.line.transit.tail, sending := none } }
  | .reply i =>
    { s with line :=
      { s.line with slots := tablePut .free s.line.slots i .free,
                    readyOrder := s.line.readyOrder.filter (· ≠ i), sending := none } }
  | .report =>
    { s with line := { s.line with sending := none }, mgmt := { s.mgmt with reports := s.mgmt.reports.tail } }

/-- A step of the part: nothing happens while RESETN is low; otherwise the event's effect f, after which LINE OUT
takes up a frame if it is idle and one is waiting (log 10). -/
def event (f : State → State) (s : State) : Host.Outcome State Fault Refusal :=
  if s.resetLow then .next s else .next (kickLineOut (f s))

/-- Whether the part is on-line (R1): its address is 1 to 126. -/
def onLine (s : State) : Bool := decide (1 ≤ s.line.nodeAddr) && decide (s.line.nodeAddr ≤ 126)

end Sys2Proof.Machine
end

