-- ==== Sys2Proof/Machine/Players.lean ====
section
/-! DEFINITION. The Player Bank (chapter 9): plays, trigger lines, fires, modes and the belt events. A play moves
through any number of segments that start and end at once within one event (R171); the steps of such a
movement are tasks on a stack, so that what a step brings about is finished before the next step begins. -/

namespace Sys2Proof.Machine

/-- One step of a play's movement. -/
inductive PTask where
  /-- A play starts (R175). -/
  | startPlay (p : Nat) (f : Fire)
  /-- A segment starts (R170). -/
  | segment (p k : Nat)
  /-- A line of the segment's trigger-out set is made pending by player p (R170, step 2). -/
  | raise (p l : Nat)
  /-- The ramp begins (R170, step 3). -/
  | rampBegin (p ms : Nat)
  /-- The hold begins (R171). -/
  | holdBegin (p : Nat)
  /-- The hold ends (R171). -/
  | holdEnd (p : Nat)
  deriving DecidableEq, Repr

/-- A LEVEL frame of player p, to its actuator node with its actuator index (R167). -/
def pushLevel (p level ramp : Nat) (s : State) : State :=
  match (playerAt s p).node with
  | some n => pushControl { dest := n, msg := .level (playerAt s p).actuator level ramp } s
  | none => s

/-- Player p's play replaced. -/
def setPlay (p : Nat) (pl : Option Play) (s : State) : State := setPlayer p { playerAt s p with play := pl } s

/-- Player p's phase replaced, while it is playing. -/
def setPhase (p : Nat) (ph : Phase) (s : State) : State :=
  match (playerAt s p).play with
  | some pl => setPlay p (some { pl with phase := ph }) s
  | none => s

/-- Player p waits on line l: it is in the HOLD phase of a TRIGGER segment naming l. -/
def waitsOn (s : State) (l p : Nat) : Bool :=
  match (playerAt s p).play with
  | some { fire := _, seg := _, phase := .trigger l' _ } => decide (l' = l)
  | _ => false

/-- The waiting player with the lowest player number (R172). -/
def firstWaiter (s : State) (l : Nat) : Option Nat := (List.range 40).find? (waitsOn s l)

/-- Every line whose setter is player p is cleared (R175, step 1). -/
def clearLinesOf (p : Nat) (s : State) : State :=
  (List.range 8).foldl (fun s l => if lineAt s l = some p then setLine l none s else s) s

/-- The lines of a trigger-out set, in increasing line number: DESIGN CHOICE (log 7). -/
def linesOf (outs : Byte) : List Nat := (List.range 8).filter fun l => outs.getLsbD l

/-- One task: the state after it, and the tasks it brings about, which come before those that wait. -/
def stepTask (t : PTask) (s : State) : State × List PTask :=
  match t with
  | .startPlay p f =>
    (setPlay p (some { fire := f, seg := 0, phase := .ramp 0 }) (clearLinesOf p s), [.segment p 0])
  | .segment p k =>
    match (playerAt s p).play with
    | some pl =>
      match (profileAt s pl.fire.profile)[k]? with
      | some g =>
        (setPlay p (some { pl with seg := k, phase := .ramp g.ramp }) (pushLevel p g.level g.ramp s),
          (linesOf g.outs).map (PTask.raise p) ++ [.rampBegin p g.ramp])
      | none => (setPlay p none s, [])
    | none => (s, [])
  | .raise p l =>
    match firstWaiter s l with
    | some q => (setLine l none s, [.holdEnd q])
    | none => (setLine l (some p) s, [])
  | .rampBegin p ms => if ms = 0 then (s, [.holdBegin p]) else (setPhase p (.ramp ms) s, [])
  | .holdBegin p =>
    match (playerAt s p).play with
    | some pl =>
      match (profileAt s pl.fire.profile)[pl.seg]? with
      | some g =>
        match g.hold with
        | .time ms => if ms = 0 then (s, [.holdEnd p]) else (setPhase p (.time ms) s, [])
        | .window =>
          if s.tracker.state = .blind then (s, [.holdEnd p])
          else (setPhase p (.window 0 pl.fire.window pl.fire.window) s, [])
        | .trigger l ms =>
          if (lineAt s l).isSome then (setLine l none s, [.holdEnd p]) else (setPhase p (.trigger l ms) s, [])
      | none => (setPlay p none s, [])
    | none => (s, [])
  | .holdEnd p =>
    match (playerAt s p).play with
    | some pl =>
      if pl.seg + 1 < (profileAt s pl.fire.profile).length then (s, [.segment p (pl.seg + 1)])
      else
        match (playerAt s p).pending with
        | some f => (setPlayer p { playerAt s p with play := none, pending := none } s, [.startPlay p f])
        | none => (setPlay p none s, [])
    | none => (s, [])

/-- The tasks of a stack taken until none is left. The count bounds the tasks one event can bring about: 40
players, each with at most two plays of 8 segments, each segment at most 13 tasks. -/
def runTasks : Nat → List PTask → State → State
  | 0, _, s => s
  | _, [], s => s
  | n + 1, t :: ts, s => let r := stepTask t s; runTasks n (r.2 ++ ts) r.1

/-- A task with everything it brings about. -/
def runTask (t : PTask) (s : State) : State := runTasks 10000 [t] s

/-- The four answers to a fire (section 9.4). -/
inductive FireAnswer where
  | played
  | merged
  | pending
  | refused
  deriving DecidableEq, Repr

/-- A fire kept for later by a PLAYING player, or refused when one already waits (R174). -/
def keepFire (p : Nat) (f : Fire) (s : State) : State × FireAnswer :=
  match (playerAt s p).pending with
  | none => (setPlayer p { playerAt s p with pending := some f } s, .pending)
  | some _ => (s, .refused)

/-- A fire taken by player p (R174). -/
def playerFire (p : Nat) (f : Fire) (s : State) : State × FireAnswer :=
  if (playerAt s p).mode ≠ .auto then (s, .refused)
  else if profileAt s f.profile = [] then (s, .refused)
  else
    match (playerAt s p).play with
    | none => (runTask (.startPlay p f) s, .played)
    | some pl =>
      match pl.phase with
      | .window m windowEnd openLen =>
        if m ≤ openLen + pl.fire.margin then
          (setPhase p (.window m (max windowEnd (m + f.window)) openLen) s, .merged)
        else keepFire p f s
      | _ => keepFire p f s

/-- Player p is in the HOLD phase of a WINDOW segment. -/
def inWindow (s : State) (p : Nat) : Bool :=
  match (playerAt s p).play with
  | some { fire := _, seg := _, phase := .window _ _ _ } => true
  | _ => false

/-- The players in the HOLD phase of a WINDOW segment, in increasing number. -/
def windowPlayers (s : State) : List Nat := (List.range 40).filter (inWindow s)

/-- An advance taken by player p (R177): its window count grows, and at the window end the hold ends. -/
def playerAdvance (a p : Nat) (s : State) : State :=
  match (playerAt s p).play with
  | some { fire := _, seg := _, phase := .window m windowEnd openLen } =>
    let s := setPhase p (.window (m + a) windowEnd openLen) s
    if windowEnd ≤ m + a then runTask (.holdEnd p) s else s
  | _ => s

/-- Entry to BLIND at the Player Bank (R177): every WINDOW hold open at that moment ends at once. -/
def blindWindows (s : State) : State :=
  (windowPlayers s).foldl (fun s p => if inWindow s p then runTask (.holdEnd p) s else s) s

/-- Player p's play aborted (R176): its timers stop, its pending fire is dropped, its lines stay. -/
def abortPlay (p : Nat) (s : State) : State := setPlayer p { playerAt s p with play := none, pending := none } s

/-- The level of a mode's entry frame (R168). -/
def entryLevel (m : PlayerMode) (direct : Nat) : Nat := if m = .direct then direct else 0

/-- A change of player p's mode (R168): any play aborted, the mode set, the entry frame built. -/
def changeMode (p : Nat) (m : PlayerMode) (s : State) : State :=
  let s := abortPlay p s
  let r := playerAt s p
  pushLevel p (entryLevel m r.level) 0 (setPlayer p { r with mode := m } s)

/-- The Player Bank at RESTART (R178): each PLAYING player's play is aborted and a LEVEL 0 frame built, in
increasing player number; pending fires are dropped and trigger lines cleared. -/
def restartPlayers (s : State) : State :=
  let s := (List.range 40).foldl
    (fun s p =>
      if (playerAt s p).play.isSome then pushLevel p 0 0 (abortPlay p s)
      else setPlayer p { playerAt s p with pending := none } s) s
  { s with players := { s.players with lines := [] } }

end Sys2Proof.Machine
end

