-- ==== Sys2Proof/Machine/Divert.lean ====
section
/-! DEFINITION. The Divert Timer (chapter 8): lead, fire position, window, reachability, arming, and the exits from a
fire queue. -/

namespace Sys2Proof.Machine

/-- The lead (R147): V * A / 32 rounded up, at most 4095. -/
def leadOf (v a : Nat) : Nat := min 4095 ((v * a + 31) / 32)

/-- The fire position (R148): Pc + floor(Lb / 2) - lead, a plain number. -/
def firePos (pc lb lead : Nat) : Nat := pc + lb / 2 - lead

/-- The window (R148): Lb + 2 * Mg, kept within 1 to 4095. -/
def windowOf (lb mg : Nat) : Nat := max 1 (min 4095 (lb + 2 * mg))

/-- The fire position of a trial of a bag at a chute, with V as it stands (R149). -/
def trialFire (s : State) (b : Bag) (c : Chute) : Nat :=
  firePos c.pos (b.len.getD 0) (leadOf s.tracker.speed c.leadTime)

/-- The window of a trial of a bag at a chute. -/
def trialWindow (b : Bag) (c : Chute) : Nat := windowOf (b.len.getD 0) c.margin

/-- The chute is reachable for the bag (R149). It is the one test of every offer, of the one after a missed divert too
(R157): DESIGN CHOICE (log 40). -/
def reachable (s : State) (b : Bag) (c : Chute) : Bool :=
  match b.edge with
  | some e => decide (e < trialFire s b c) && decide (c.armDist ≤ trialFire s b c - e)
  | none => false

/-- The confirm deadline fixed at arming (R150, step 2). -/
def deadlineOf (l f dc : Nat) : Deadline := if f + dc ≤ l - 1 then .position (f + dc) else .count dc

/-- The fire position of an armed or diverting record. -/
def fireOf (s : State) (i : Nat) : Nat :=
  match (bagAt s i).bind (·.divert) with
  | some d => d.fire
  | none => 0

/-- An entry inserted in increasing F, behind entries with the same F (R150, step 1). -/
def insertEntry (s : State) (f : Nat) (e : QEntry) : List QEntry → List QEntry
  | [] => [e]
  | x :: xs => if f < fireOf s x.bag then e :: x :: xs else x :: insertEntry s f e xs

/-- Bag i armed at chute c (R150): queue entry, deadline, record. The committed count is the queue's length. -/
def armBag (i c : Nat) (b : Bag) (r : Chute) (s : State) : State :=
  let f := trialFire s b r
  let d : Divert :=
    { chute := c, fire := f, window := trialWindow b r, deadline := deadlineOf (loopLen s) f r.confirmDist }
  setBag i (some { b with state := .armed, divert := some d })
    (setQueue c (insertEntry s f { bag := i, rank := none } (queueAt s c)) s)

/-- The Divert Timer's answer to a proposal of chute c for bag i (R150): the state with the bag armed there, when
the bag is ROUTED, the chute reachable and the queue not full. -/
def tryArm (i c : Nat) (s : State) : Option State :=
  match bagAt s i, chuteAt s c with
  | some b, some r =>
    if b.state = .routed ∧ reachable s b r = true ∧ committed s c < 3 then some (armBag i c b r s) else none
  | _, _ => none

/-- A fire queue without the entry of bag i, the firing ranks behind it moved up (R154, R157). -/
def removeEntry (i : Nat) (q : List QEntry) : List QEntry :=
  let r := (q.find? fun e => decide (e.bag = i)).bind (·.rank)
  (q.filter fun e => decide (e.bag ≠ i)).map fun e =>
    match r, e.rank with
    | some a, some b => if a < b then { e with rank := some (b - 1) } else e
    | _, _ => e

/-- Bag i leaves its fire queue; its record becomes ROUTED with no divert (R157, R158). -/
def leaveQueue (i : Nat) (s : State) : State :=
  match bagAt s i with
  | some b =>
    match b.divert with
    | some d =>
      setBag i (some { b with state := .routed, divert := none }) (setQueue d.chute (removeEntry i (queueAt s d.chute)) s)
    | none => s
  | none => s

/-- Whether bag i is in a state. -/
def inState (s : State) (i : Nat) (st : BagState) : Bool :=
  match bagAt s i with
  | some b => decide (b.state = st)
  | none => false

/-- A disarm of bag i without the offer that follows it (R158, steps 1 and 2). Only an ARMED bag is disarmed. -/
def disarm (i : Nat) (s : State) : State := if inState s i .armed then leaveQueue i s else s

/-- A miss of bag i without the offer that follows it (R157, steps 1 to 3). -/
def missCore (i : Nat) (s : State) : State :=
  if inState s i .diverting then bump .missedDiverts (leaveQueue i s) else s

/-- The ARMED bags of chute c, in fire queue order. -/
def armedAt (s : State) (c : Nat) : List Nat :=
  ((queueAt s c).map (·.bag)).filter fun i => inState s i .armed

/-- Every ARMED bag, in increasing chute index and within a chute in fire queue order (R158). -/
def allArmed (s : State) : List Nat := (List.range 32).flatMap (armedAt s)

/-- The earliest-fired DIVERTING bag of chute c's queue: the one with firing rank 1 (R154). -/
def oldestFired (s : State) (c : Nat) : Option Nat :=
  ((queueAt s c).find? fun e => decide (e.rank = some 1)).map (·.bag)

/-- The entry of bag i in chute c's queue takes the next firing rank (R153, step 3). -/
def rankEntry (i : Nat) (q : List QEntry) : List QEntry :=
  let n := q.countP fun e => e.rank.isSome
  q.map fun e => if e.bag = i then { e with rank := some (n + 1) } else e

/-- The chute a player belongs to, as its diverter or its takeaway (chapter 9). -/
def chuteOfPlayer (s : State) (p : Nat) : Option Nat :=
  (List.range 32).find? fun c =>
    match chuteAt s c with
    | some r => decide (r.diverter = p) || decide (r.takeaway = some p)
    | none => false

end Sys2Proof.Machine
end

