-- ==== Sys2Proof/Machine/Offers.lean ====
section
/-! DEFINITION. The Chute Allocator's availability and offers (sections 7.3 and 7.4), and the rounds of offers that
follow an event which makes chutes available or leaves room in a full fire queue (R126, R130, R161). -/

namespace Sys2Proof.Machine

/-- Player p is in mode AUTO. -/
def playerAuto (s : State) (p : Nat) : Bool := decide ((playerAt s p).mode = .auto)

/-- The committed counts of all STRAY chutes together (R126, condition 6). -/
def strayCommitted (s : State) : Nat :=
  ((List.range 32).map fun c =>
    match chuteAt s c with
    | some r => if r.role = .stray then committed s c else 0
    | none => 0).sum

/-- Chute c is available (R126). -/
def available (s : State) (c : Nat) : Bool :=
  match chuteAt s c with
  | some r =>
    decide (r.role ≠ .disabled) &&
    playerAuto s r.diverter && (match r.takeaway with | some p => playerAuto s p | none => true) &&
    !s.mgmt.sortHold &&
    decide (s.tracker.state = .tracking) &&
    (match r.role with
     | .sort => decide (r.cage.state = .opened) && decide (r.cage.loaded.length + committed s c < r.capacity)
     | .stray => decide (s.strays.entries.length + strayCommitted s < 64)
     | _ => true)
  | none => false

/-- The chutes in downstream order from a bag's leading edge (R127). -/
def downstreamChutes (s : State) (e : Nat) : List Nat :=
  let key := fun c => match chuteAt s c with | some r => downstream (loopLen s) e r.pos | none => 0
  ((List.range 32).filter fun c => (chuteAt s c).isSome).insertionSort fun a b =>
    key a < key b ∨ (key a = key b ∧ a ≤ b)

/-- A chute's role. -/
def chuteRole (s : State) (c : Nat) : Option ChuteRole := (chuteAt s c).map (·.role)

/-- Chute c serves class k: an available SORT chute with that assigned class (R127, first pass). -/
def servesClass (s : State) (k c : Nat) : Bool :=
  available s c &&
    match chuteAt s c with
    | some r => decide (r.role = .sort) && decide (r.cls = some k)
    | none => false

/-- Chute c may be given a class: an available POOLED SORT chute with no class, its cage OPEN with known count
0 and committed count 0 (R127, second pass). -/
def unassigned (s : State) (c : Nat) : Bool :=
  available s c &&
    match chuteAt s c with
    | some r =>
      decide (r.role = .sort) && decide (r.mode = .pooled) && decide (r.cls = none) &&
        decide (r.cage.state = .opened) && r.cage.loaded.isEmpty && decide (committed s c = 0)
    | none => false

/-- The first chute of a list at which a way of arming succeeds. -/
def firstArmed (f : Nat → State → Option State) : List Nat → State → Option State
  | [], _ => none
  | c :: cs, s =>
    match f c s with
    | some s' => some s'
    | none => firstArmed f cs s

/-- Arming at an available chute of class k. -/
def armServing (i k c : Nat) (s : State) : Option State := if servesClass s k c then tryArm i c s else none

/-- Arming at an unassigned chute, which takes class k in the same event (R127). -/
def armAssigning (i k c : Nat) (s : State) : Option State :=
  if unassigned s c then (tryArm i c s).map (modifyChute c fun r => { r with cls := some k }) else none

/-- Arming at an available STRAY chute (R128). -/
def armStray (i c : Nat) (s : State) : Option State :=
  if available s c && decide (chuteRole s c = some .stray) then tryArm i c s else none

/-- Arming at an available OVERFLOW chute; the bag's target becomes OVERFLOW with reason w (R128). -/
def armOverflow (i : Nat) (w : Reason) (c : Nat) (s : State) : Option State :=
  if available s c && decide (chuteRole s c = some .overflow) then
    (tryArm i c s).map (modifyBag i fun b => { b with target := some (.overflow w) })
  else none

/-- The offer of a ROUTED bag: the first chute at which the Divert Timer arms it (R127, R128, R129). An offer
that reaches a record in another state, or a freed record, does nothing. -/
def offerBag (i : Nat) (s : State) : State :=
  match bagAt s i with
  | some b =>
    if b.state = .routed then
      let cs := downstreamChutes s (b.edge.getD 0)
      match b.target with
      | some (.sort k) =>
        match firstArmed (armServing i k) cs s with
        | some s' => s'
        | none => (firstArmed (armAssigning i k) cs s).getD s
      | some (.stray w) =>
        match firstArmed (armStray i) cs s with
        | some s' => s'
        | none => (firstArmed (armOverflow i w) cs s).getD s
      | some (.overflow w) => (firstArmed (armOverflow i w) cs s).getD s
      | none => s
    else s
  | none => s

/-- Bags offered one at a time in the order given (R129). -/
def offerBags (is : List Nat) (s : State) : State := is.foldl (fun s i => offerBag i s) s

/-- Some available STRAY chute would arm the bag at this moment (R130): DEDUCED (log 23). -/
def strayTakes (s : State) (i : Nat) : Bool := (List.range 32).any fun c => (armStray i c s).isSome

/-- A ROUTED bag that can use chute c (R130), tried there as R127 or R128 would try it: the state with the bag
armed, when it is. -/
def armAtChute (i c : Nat) (s : State) : Option State :=
  match bagAt s i with
  | some b =>
    if b.state = .routed then
      match b.target with
      | some (.sort k) =>
        match armServing i k c s with
        | some s' => some s'
        | none => armAssigning i k c s
      | some (.stray w) =>
        match armStray i c s with
        | some s' => some s'
        | none => if strayTakes s i then none else armOverflow i w c s
      | some (.overflow w) => armOverflow i w c s
      | none => none
    else none
  | none => none

/-- Nearness of a bag to chute c: the downstream distance from its leading edge to the fire position of a trial
there (R130). -/
def nearness (s : State) (c : Nat) (b : Bag) : Nat :=
  match chuteAt s c with
  | some r => downstream (loopLen s) (b.edge.getD 0) (trialFire s b r)
  | none => 0

/-- The ROUTED bags in order of nearness to chute c, the lower record index first at the same distance. -/
def nearestBags (s : State) (c : Nat) : List Nat :=
  let bs := (liveBags s).filter fun (_, b) => decide (b.state = .routed)
  (bs.insertionSort fun x y =>
    nearness s c x.2 < nearness s c y.2 ∨ (nearness s c x.2 = nearness s c y.2 ∧ x.1 ≤ y.1)).map Prod.fst

/-- One bag tried at chute c in a round, while the chute is available. -/
def roundBag (c : Nat) (s : State) (i : Nat) : State :=
  if available s c then (armAtChute i c s).getD s else s

/-- A round of offers for chute c (R130). -/
def roundAt (s : State) (c : Nat) : State := (nearestBags s c).foldl (roundBag c) s

/-- Rounds of offers for several chutes, each with its own round. -/
def roundsAt (cs : List Nat) (s : State) : State := cs.foldl roundAt s

/-- The chutes an event gives a round to: those available after it that were not before (R126), and those
available after it whose full fire queue it left with room (R161). -/
def roundsDue (before after : State) : List Nat :=
  (List.range 32).filter fun c =>
    available after c && (!available before c || (decide (3 ≤ committed before c) && decide (committed after c < 3)))

/-- An action of the part, followed by the rounds of offers it leads to: they come after every offer that the
action's own rules make (R161), in increasing chute index (R130): DEDUCED (log 15). A grant attempt that freeing a record
brings within the action comes before them: DESIGN CHOICE (log 38). -/
def withRounds (f : State → State) (s : State) : State :=
  let s' := f s
  roundsAt (roundsDue s s') s'

/-- Bags disarmed, and then offered, in one order (R158). -/
def disarmAll (is : List Nat) (s : State) : State := offerBags is (is.foldl (fun s i => disarm i s) s)

end Sys2Proof.Machine
end

