-- ==== Sys2Proof/Machine/Strays.lean ====
section
/-! DEFINITION. The Stray Unit's list (chapter 10): slot allocation, entries from the stray chutes, removals and
pairing. -/

namespace Sys2Proof.Machine

/-- The slot number after n, wrapping from 65535 to 0 (R181). -/
def slotAfter (n : Nat) : Nat := (n + 1) % 65536

/-- The first number at or after a candidate that no entry holds, searched through at most k + 1 candidates
(R181). -/
def freeSlotNumber (es : List StrayEntry) : Nat → Nat → Nat
  | 0, n => n
  | k + 1, n => if es.any (fun e => decide (e.slot = n)) then freeSlotNumber es k (slotAfter n) else n

/-- An entry placed in the list by its slot number (R181). -/
def insertStray (e : StrayEntry) : List StrayEntry → List StrayEntry
  | [] => [e]
  | x :: xs => if e.slot < x.slot then e :: x :: xs else x :: insertStray e xs

/-- The entry that holds a slot number. -/
def strayAt (s : State) (slot : Nat) : Option StrayEntry :=
  s.strays.entries.find? fun e => decide (e.slot = slot)

/-- A new WAITING entry for a bag landed on a stray chute (R181, R182): the slot it is given, and the state. -/
def addStray (w : Reason) (codes : List TagCode) (lb : Nat) (s : State) : Nat × State :=
  let n := freeSlotNumber s.strays.entries 65 s.strays.nextSlot
  (n, { s with strays :=
    { s.strays with
      entries := insertStray { slot := n, reason := w, codes := codes, len := lb, keyed := none } s.strays.entries,
      nextSlot := slotAfter n } })

/-- An entry and its place in the keyed order removed. -/
def dropStray (slot : Nat) (s : State) : State :=
  { s with strays :=
    { s.strays with
      entries := s.strays.entries.filter (fun e => decide (e.slot ≠ slot)),
      keyedOrder := s.strays.keyedOrder.filter (fun n => decide (n ≠ slot)) } }

/-- A removal told to the Chute Allocator in its event (R183): chutes it makes available get their rounds. -/
def removeStray (slot : Nat) (s : State) : State := withRounds (dropStray slot) s

/-- An entry becomes KEYED and joins the tail of the keyed order (R185). -/
def keyStray (slot : Nat) (o : Owned) (s : State) : State :=
  { s with strays :=
    { s.strays with
      entries := s.strays.entries.map (fun e => if e.slot = slot then { e with keyed := some o } else e),
      keyedOrder := s.strays.keyedOrder ++ [slot] } }

/-- The pairing of R188: the new record takes the code of the entry at the head of the keyed order, whose entry is
removed. With the keyed order empty the grant is an ordinary induction. -/
def pairStray (bag : Nat) (s : State) : State :=
  match s.strays.keyedOrder with
  | n :: _ =>
    match strayAt s n with
    | some e =>
      withRounds (fun s => modifyBag bag (fun b => { b with owned := e.keyed }) (dropStray n s)) s
    | none => s
  | [] => s

end Sys2Proof.Machine
end

