-- ==== Sys2Proof/Machine/Gate.lean ====
section
/-! DEFINITION. The Induction Gate (chapter 3): loop speed and idle timers, station answers, the merge span, grants,
and INDUCT and DRIVE frames. -/

namespace Sys2Proof.Machine

/-! ### Loop speed (section 3.5) -/

/-- The address of the DRIVE entry of the Node Table. -/
def driveAddr (s : State) : Option Nat :=
  s.nodes.findSome? fun (_, o) =>
    match o with
    | some { addr := a, role := .drive } => some a
    | _ => none

/-- A SPEED frame giving a speed state, built while a DRIVE entry exists (R54). -/
def pushSpeed (v : SpeedState) (s : State) : State :=
  match driveAddr s with
  | some a => pushControl { dest := a, msg := .speed v } s
  | none => s

/-- The speed state set; a change builds one SPEED frame (R54). -/
def setSpeed (v : SpeedState) (s : State) : State :=
  if s.gate.speed = v then s else pushSpeed v (withGate (fun g => { g with speed := v }) s)

/-- A request slot of the gate. -/
def requestAt (s : State) (n : Nat) : Option StationType := tableGet none s.gate.slots n

/-- A request slot filled or emptied. -/
def setRequest (n : Nat) (o : Option StationType) (s : State) : State :=
  withGate (fun g => { g with slots := tablePut none g.slots n o }) s

/-- The loop is idle (R53): no bag record is live and every request slot is empty. -/
def loopIdle (s : State) : Bool := (liveBags s).isEmpty && (List.range 4).all fun n => (requestAt s n).isNone

/-- The idle timers as R53 keeps them: in RUN the run idle timer starts when the loop becomes idle, and both
stop when it stops being idle. A timer that would start without a loop configuration is not started. -/
def idleUpdate (s : State) : State :=
  if loopIdle s then
    match s.tracker.cfg with
    | some c =>
      if s.gate.speed = .run ∧ s.gate.runTimer = none then withGate (fun g => { g with runTimer := some c.runIdle }) s
      else s
    | none => s
  else withGate (fun g => { g with runTimer := none, slowTimer := none }) s

/-- A request or the creation of a record moves the speed state to RUN and stops both timers (R53). -/
def wakeLoop (s : State) : State :=
  setSpeed .run (withGate (fun g => { g with runTimer := none, slowTimer := none }) s)

/-! ### Stations (R47) -/

/-- The place of the first mapped slot that a test passes. -/
def slotIndex {α : Type} (p : α → Bool) : List (Option α) → Option Nat
  | [] => none
  | some a :: r => if p a then some 0 else (slotIndex p r).map (· + 1)
  | none :: r => (slotIndex p r).map (· + 1)

/-- The STATION entry that maps a station: its address and the local index under which it maps the station. -/
def stationAddr (s : State) (n : Nat) : Option (Nat × Nat) :=
  s.nodes.findSome? fun (_, o) =>
    match o with
    | some { addr := a, role := .station ids } =>
      (slotIndex (fun d : StationId => decide (d.number = n)) ids).map fun i => (a, i)
    | _ => none

/-- A GATE frame answering a station (R47). -/
def pushGate (n : Nat) (permit : Bool) (s : State) : State :=
  match stationAddr s n with
  | some (a, i) => pushControl { dest := a, msg := .gate i permit } s
  | none => s

/-! ### Grants (section 3.2) -/

/-- A bag's body and the merge span have a position in common (R43). The span starts gap before counts upstream of
the merge point; the body's rearmost position is (E - Lb + 1) modulo L. Two arcs meet when one starts within
the other. -/
def bodyInSpan (c : LoopCfg) (e lb : Nat) : Bool :=
  let start := (c.len - c.gapBefore) % c.len
  let rear := downstream c.len (lb - 1) e
  decide (downstream c.len start rear ≤ c.gapBefore + c.maxBag + c.gapAfter) ||
    decide (downstream c.len rear start ≤ lb - 1)

/-- The merge span is clear (R43). -/
def spanClear (c : LoopCfg) (s : State) : Bool :=
  (liveBags s).all fun (_, b) =>
    match b.edge with
    | some e => !bodyInSpan c e (b.len.getD 1)
    | none => true

/-- The conditions of R42. -/
def grantAllowed (s : State) : Bool :=
  match s.tracker.cfg with
  | some c =>
    decide (s.gate.speed = .run) && decide (c.vRun ≤ s.tracker.speed) && decide (s.tracker.state = .tracking) &&
    !s.mgmt.sortHold && decide (s.gate.drive = .ready) && s.gate.inFlight.isNone &&
    decide (liveCount s < c.loopLimit) && decide (liveCount s < 512) && spanClear c s
  | none => false

/-- The bag record a grant creates (R59). -/
def grantedBag (station : Nat) : Bag :=
  { state := .inducting, station := some station, edge := none, len := none, recirc := 0, expEye := none, misses := 0,
    uncertain := false, oversize := false, lastScan := [], owned := none, target := none, divert := none }

/-- A bag record created at the lowest free index, and the Induction Gate told of it (R59, R53): the index, and
the state. Nothing is created while 512 records are live. -/
def createBag (b : Bag) (s : State) : Option (Nat × State) :=
  (freeIndex s).map fun i => (i, wakeLoop (setBag i (some b) s))

/-- The grant of station n, whose slot recorded type ty and which the Node Table maps (R46). -/
def grantStation (n : Nat) (ty : StationType) (s : State) : State :=
  match createBag (grantedBag n) s with
  | some (i, s1) =>
    let s2 := withGate (fun g => { g with inFlight := some { bag := i, remaining := (s.tracker.cfg.map (·.inductTimeout)).getD 0 } }) s1
    let s3 := if ty = .encode then pairStray i s2 else s2
    let s4 := pushGate n true s3
    bump .inducted (withGate (fun g => { g with slots := tablePut none g.slots n none, pointer := n }) s4)
  | none => s

/-- The waiting stations looked at in an order (R45): the first full slot is granted, except that a station the
Node Table no longer maps is withdrawn and the next one looked at (R41). -/
def grantFirst : List Nat → State → State
  | [], s => s
  | n :: ns, s =>
    match requestAt s n with
    | some ty =>
      match stationAddr s n with
      | some _ => grantStation n ty s
      | none => grantFirst ns (idleUpdate (setRequest n none s))
    | none => grantFirst ns s

/-- The round-robin order of R45: from the station after the pointer to the pointer's own. -/
def arbiterOrder (p : Nat) : List Nat := [(p + 1) % 4, (p + 2) % 4, (p + 3) % 4, p % 4]

/-- A grant attempt (R44). -/
def grantAttempt (s : State) : State :=
  if grantAllowed s then grantFirst (arbiterOrder s.gate.pointer) s else s

/-! ### INDUCT and DRIVE frames -/

/-- An INDUCT frame of a station (R40). -/
def takeInduct (d : StationId) (s : State) : State :=
  match requestAt s d.number with
  | some _ => pushGate d.number false s
  | none =>
    let s' := grantAttempt (wakeLoop (setRequest d.number (some d.type) s))
    match requestAt s' d.number with
    | some _ => pushGate d.number false s'
    | none => s'

/-- A DRIVE frame (R55). -/
def takeDrive (ready : Bool) (s : State) : State :=
  let st := if ready then DriveState.ready else DriveState.fault
  if s.gate.drive = st then s
  else
    let s' := pushReport (.drive (!ready)) (withGate (fun g => { g with drive := st }) s)
    if ready then grantAttempt s' else s'

/-- The run idle timer expires (R53). -/
def expireRunIdle (s : State) : State :=
  match s.gate.runTimer with
  | some _ =>
    setSpeed .slow
      (withGate (fun g => { g with runTimer := none, slowTimer := s.tracker.cfg.map (·.slowIdle) }) s)
  | none => s

/-- The slow idle timer expires (R53). -/
def expireSlowIdle (s : State) : State :=
  match s.gate.slowTimer with
  | some _ => setSpeed .standby (withGate (fun g => { g with slowTimer := none }) s)
  | none => s

/-- The gate at RESTART (R57): one SPEED STANDBY frame, the drive state kept. -/
def restartGate (s : State) : State :=
  pushSpeed .standby (withGate (fun g => { resetGate with drive := g.drive }) s)

end Sys2Proof.Machine
end

