-- ==== Sys2Proof/Machine/Manifest.lean ====
section
/-! DEFINITION. The Manifest Store's lookups and tally updates (sections 5.1 and 5.2). -/

namespace Sys2Proof.Machine

/-- The cabin record at a position of a bank, blank where nothing was written (R80). -/
def cabinAt (b : Bank) (p : Nat) : Cabin := tableGet blankCabin b.recs p

/-- A position of a bank written. -/
def putCabin (p : Nat) (r : Cabin) (b : Bank) : Bank := { b with recs := tablePut blankCabin b.recs p r }

/-- The map entry of a deck and zone: entry (deck - 1) * 8 + (zone - 1), NONE where not listed (R80). -/
def mapClass (b : Bank) (deck zone : Nat) : Option Nat := tableGet none b.map ((deck - 1) * 8 + (zone - 1))

/-- A record's class: its class override when that is not NONE, and otherwise the map's (R81). -/
def cabinClass (b : Bank) (r : Cabin) : Option Nat :=
  match r.override with
  | some c => some c
  | none => mapClass b r.deck r.zone

/-- The record among positions 0 to count - 1 with a cabin number, and its position. -/
def bankFind (b : Bank) (number : Nat) : Option (Nat × Cabin) :=
  b.recs.find? fun (p, r) => decide (p < b.count) && decide (r.number = number)

/-- The sailing lookup of R82: the sailing, OPEN or CLOSED, whose code is the tag code's sailing field. -/
def sailingLookup (s : State) (c : TagCode) : Option Nat :=
  [0, 1].find? fun i =>
    decide ((sailingAt s i).state ≠ .empty) && decide ((sailingAt s i).code = some (sailingField c))

/-- The cabin lookup of R82: the position and the record in the sailing's ACTIVE bank. -/
def cabinLookup (s : State) (i : Nat) (c : TagCode) : Option (Nat × Cabin) :=
  let b := (sailingAt s i).active
  if b.code = sailingField c then bankFind b (cabinField c) else none

/-- The RESTART sweep has not yet reached a position of a sailing's ACTIVE bank (R102). -/
def notSwept (s : State) (i p : Nat) : Bool :=
  match s.mgmt.restart with
  | some { slot := _, sweep := some (g, q) } => decide (g < i) || (decide (g = i) && decide (q ≤ p))
  | _ => false

/-- A record's seen set as lookups read it: its loaded set until the RESTART sweep reaches it (R102). -/
def seenNow (s : State) (i : Nat) (hit : Nat × Cabin) : SerialSet :=
  if notSwept s i hit.1 then hit.2.loaded else hit.2.seen

/-- The four kinds of tally update (R83). -/
inductive Tally where
  | seenSet
  | seenClear
  | loadedSet
  | doneSet
  deriving DecidableEq, Repr

/-- A tally update on one record (R83). -/
def tallyRecord (k : Tally) (serial : Nat) (r : Cabin) : Cabin :=
  match k with
  | .seenSet => { r with seen := r.seen ||| serialBit serial }
  | .seenClear => { r with seen := r.seen &&& ~~~ serialBit serial }
  | .loadedSet => { r with loaded := r.loaded ||| serialBit serial }
  | .doneSet => { r with done := true }

/-- The mirrored change of R90: a DONE_SET changes nothing in a record whose expected bags is 0. -/
def mirrorRecord (k : Tally) (serial : Nat) (r : Cabin) : Cabin :=
  if k = .doneSet ∧ r.expected = 0 then r else tallyRecord k serial r

/-- Whether a walk mirrors an update of a cabin (R90): it is carrying and the cabin is at or below the cursor. -/
def mirrors (w : Walk) (cabin : Nat) : Bool :=
  w.carrying &&
    match w.cursor with
    | some c => decide (cabin ≤ c)
    | none => false

/-- The STAGING bank after an update has been mirrored into it, where R90 mirrors it. -/
def mirrorBank (k : Tally) (c : TagCode) (w : Option Walk) (b : Bank) : Bank :=
  match w with
  | some w =>
    if mirrors w (cabinField c) then
      match bankFind b (cabinField c) with
      | some (p, r) => putCabin p (mirrorRecord k (serialField c) r) b
      | none => b
    else b
  | none => b

/-- A tally update of a tag code in a sailing (R83): made in the ACTIVE record the cabin lookup returns, and
mirrored into STAGING during a commit walk (R90). It changes nothing when the lookup returns none. -/
def tallyUpdate (k : Tally) (i : Nat) (c : TagCode) (s : State) : State :=
  match cabinLookup s i c with
  | some (p, r) =>
    let g := sailingAt s i
    setSailing i
      { g with active := putCabin p (tallyRecord k (serialField c) r) g.active,
               staging := mirrorBank k c g.walk g.staging } s
  | none => s

end Sys2Proof.Machine
end

