-- ==== Sys2Proof/Machine/Bags.lean ====
section
/-! DEFINITION. The Bag Table (chapter 4): eye placement, targets, misses, lap marks and the freeing of records, with the
Divert Timer's miss (R157) and the routing checks (R110), which give targets. -/

namespace Sys2Proof.Machine

/-! ### Expected eyes (R60) -/

/-- The position of loop eye k, 1 to 7, if it is present. -/
def eyePos (c : LoopCfg) (k : Nat) : Option Nat := if k = 0 then none else (c.eyes[k - 1]?).join

/-- A record's tolerance (R60): Twide while it is UNCERTAIN, Teye otherwise. -/
def tolerance (c : LoopCfg) (uncertain : Bool) : Nat := if uncertain then c.wideTol else c.eyeTol

/-- The lowest-numbered present loop eye with a lap qualifier, if the loop has an eye. -/
def firstEye (c : LoopCfg) (lap : Lap) : Option ExpEye :=
  ((List.range' 1 7).find? fun k => (eyePos c k).isSome).map fun k => { eye := k, lap := lap }

/-- The next expected loop eye placed from eye number j for a leading edge and a tolerance (R60). -/
def placeEye (c : LoopCfg) (j edge tol : Nat) : Option ExpEye :=
  match (List.range' 1 7).find? (fun k =>
      decide (j ≤ k) && match eyePos c k with | some q => decide (edge ≤ q + tol) | none => false) with
  | some k => some { eye := k, lap := .this }
  | none => firstEye c .next

/-- The next expected eye of bag i placed from eye j, on a leading edge (R60). -/
def placeBag (i j edge : Nat) (s : State) : State :=
  match s.tracker.cfg with
  | some c => modifyBag i (fun b => { b with expEye := placeEye c j edge (tolerance c b.uncertain) }) s
  | none => s

/-! ### Targets -/

/-- The target a record takes when it is given t (R72): a SORT target past the recirculation limit becomes
STRAY(RECIRC). -/
def allowedTarget (s : State) (b : Bag) (t : Target) : Target :=
  match t with
  | .sort _ =>
    if ((s.tracker.cfg.map (·.recircLimit)).getD 15) < b.recirc then .stray .recirc else t
  | _ => t

/-- A record takes a target (R61): an UNREAD record becomes ROUTED. -/
def setTarget (i : Nat) (t : Target) (s : State) : State :=
  modifyBag i (fun b => { b with target := some t, state := .routed }) s

/-- A target given to record i, under R72, and the offer that follows (R61). The record is UNREAD, ROUTED, or
ARMED and then disarmed first by the rule that gives the target (R158). -/
def giveTarget (i : Nat) (t : Target) (s : State) : State :=
  match bagAt s i with
  | some b => offerBag i (setTarget i (allowedTarget s b t) (disarm i s))
  | none => s

/-- The routing checks of R110 on a cabin record of a sailing's ACTIVE bank: closure, hold, class. -/
def routeTarget (s : State) (g : Nat) (code : TagCode) (r : Cabin) : Target :=
  let sail := sailingAt s g
  if sail.state = .closed ∨ hasDeck sail.closedDecks r.deck = true then .stray .closed
  else if code ∈ s.holds then .stray .held
  else
    match cabinClass sail.active r with
    | some k => .sort k
    | none => .stray .noRoute

/-- The target of a record that owns its code, against the manifest as it stands (R93, R113): NO_MATCH where the
cabin is absent or its deck has changed, and the routing checks otherwise. -/
def ownedTarget (s : State) (o : Owned) : Target :=
  match cabinLookup s o.sailing o.code with
  | some (_, r) => if r.deck = o.deck then routeTarget s o.sailing o.code r else .stray .noMatch
  | none => .stray .noMatch

/-! ### Freeing (section 4.5) -/

/-- The measurements open for bag i dropped (R73, step 2). -/
def dropMeasures (i : Nat) (s : State) : State :=
  let s := { s with loopMeas := s.loopMeas.filter fun (_, o) =>
    match o with
    | some m => decide (m.bag ≠ i)
    | none => true }
  match s.gate.entryMeas with
  | some m => if m.bag = i then withGate (fun g => { g with entryMeas := none }) s else s
  | none => s

/-- What a disposition report carries of record i (R198). -/
def disposedOf (i : Nat) (b : Bag) : Disposed :=
  { index := i, owned := b.owned.map (·.code), target := b.target, recirc := b.recirc }

/-- A record's ownership released (R74): its serial leaves the seen set. -/
def releaseOwner (b : Bag) (s : State) : State :=
  match b.owned with
  | some o => tallyUpdate .seenClear o.sailing o.code s
  | none => s

/-- Record i freed at a disposition (R73): ownership released unless LOADED, measurements dropped, one report, one
count, the index free, and the gate told, which makes a grant attempt and looks at the idle timers. -/
def freeBag (i : Nat) (disposition : Counter) (mk : Disposed → Report) (s : State) : State :=
  match bagAt s i with
  | some b =>
    let s1 := if disposition = .loaded then s else releaseOwner b s
    let s2 := pushReport (mk (disposedOf i b)) (dropMeasures i s1)
    idleUpdate (grantAttempt (setBag i none (bump disposition s2)))
  | none => s

/-! ### Misses (section 4.3) and lap marks (section 4.4) -/

/-- A lost record (R70): disarmed without an offer if ARMED, and freed LOST, its report carrying its edge modulo L. -/
def loseBag (i : Nat) (s : State) : State :=
  match bagAt s i with
  | some b => freeBag i .lost (fun d => .lost d (b.edge.getD 0 % loopLen s)) (disarm i s)
  | none => s

/-- Bag i misses its expected eye (R69); the next eye is what place gives. A DIVERTING record's count is
unchanged. At the second consecutive miss the record is lost (R70). -/
def eyeMiss (i : Nat) (place : State → State) (s : State) : State :=
  match bagAt s i with
  | some b =>
    if b.state = .diverting then place s
    else if b.misses = 0 then place (modifyBag i (fun b => { b with misses := 1 }) s)
    else loseBag i s
  | none => s

/-- The expected eye of bag i set. -/
def setExpEye (i : Nat) (e : Option ExpEye) (s : State) : State := modifyBag i (fun b => { b with expEye := e }) s

/-- Steps 2 to 4 of R71 on a record, against a recirculation limit: the new lap, the count, the re-target. -/
def startLap (limit : Nat) (b : Bag) : Bag :=
  let b1 := { b with expEye := b.expEye.map fun x => { x with lap := .this } }
  if b.state = .unread ∨ b.state = .routed then
    let b2 := { b1 with recirc := min 15 (b1.recirc + 1) }
    if limit < b2.recirc then
      match b2.state, b2.target with
      | .unread, _ => { b2 with state := .routed, target := some (.stray .noRead) }
      | _, some (.sort _) => { b2 with target := some (.stray .recirc) }
      | _, _ => b2
    else b2
  else b1

/-- Bag i passes the lap mark (R71): the last window closed, the new lap started and counted, the bag
re-targeted, and offered when it is ROUTED. -/
def lapMark (i : Nat) (s : State) : State :=
  match s.tracker.cfg, bagAt s i with
  | some c, some b =>
    let s1 :=
      match b.expEye with
      | some { eye := _, lap := .this } => eyeMiss i (setExpEye i (firstEye c .this)) s
      | _ => s
    if (bagAt s1 i).isSome then offerBag i (modifyBag i (startLap c.recircLimit) s1) else s1
  | _, _ => s

/-- A missed divert of bag i with its offer and the round its exit may lead to (R157). The offer tries every chute by the
test of R149, the chute missed among them: DESIGN CHOICE (log 40). -/
def missDivert (i : Nat) (s : State) : State := withRounds (fun s => offerBag i (missCore i s)) s

/-- A bag DIVERTING has reached its confirm deadline (R156): a count at 0 or below, or an edge at or beyond a
position. -/
def deadlineReached (b : Bag) : Bool :=
  decide (b.state = .diverting) &&
    match b.divert with
    | some d =>
      match d.deadline with
      | .position p => (match b.edge with | some e => decide (p ≤ e) | none => false)
      | .count n => decide (n ≤ 0)
    | none => false

/-! ### The induct timeout (R48) and OVERSIZE (R52) -/

/-- The induction in flight ends by timeout (R48): the record freed NO_SHOW, the induction none, a grant attempt. -/
def inductTimeoutNow (s : State) : State :=
  match s.gate.inFlight with
  | some f =>
    let st := (bagAt s f.bag).bind (·.station)
    grantAttempt (withGate (fun g => { g with inFlight := none }) (freeBag f.bag .noShows (fun d => .noShow d st) s))
  | none => s

/-- A record found OVERSIZE (R52, steps 1 and 2): marked, its length the maximum bag length, whatever a loop eye has
measured meanwhile. -/
def markOversize (cfg : Option LoopCfg) (b : Bag) : Bag :=
  { b with oversize := true, len := match cfg with | some c => some c.maxBag | none => b.len }

/-- The bag of the open entry measurement is OVERSIZE (R52): the measurement closes, the bag is marked, with the maximum
bag length, and its loop-eye measurements dropped (R68), and unless it is DIVERTING it is given STRAY(OVERSIZE) and
offered. -/
def entryOversizeNow (s : State) : State :=
  match s.gate.entryMeas with
  | some m =>
    withRounds (fun s =>
      let s1 := modifyBag m.bag (markOversize s.tracker.cfg) (dropMeasures m.bag s)
      if inState s1 m.bag .diverting then s1 else giveTarget m.bag (.stray .oversize) s1) s
  | none => s

end Sys2Proof.Machine
end

