-- ==== Sys2Proof/Machine/Advance.lean ====
section
/-! DEFINITION. What an advance of the belt does at the Bag Table, the Divert Timer, the Player Bank and the Induction
Gate (R29, R62, R152, R156, R174, R177, R48, R52). Every edge is first moved by the whole advance, as a plain number that
wraps at its own lap mark; the points that the edges reached on the way are then taken in the order of R62. -/

namespace Sys2Proof.Machine

/-- A record moving through one advance: its edge before the advance, whether its fire point may still be reached
(it was ARMED when the advance was announced and has not been fired), and whether it has passed the lap mark. -/
structure MoveItem where
  bag : Nat
  edge : Nat
  fireOk : Bool
  lapDone : Bool
  deriving DecidableEq, Repr

/-- The kinds of point an edge reaches (R62). -/
inductive Point where
  | fire
  | deadline
  | miss
  | lap
  deriving DecidableEq, Repr

/-- An advance part of the way through: the records still moving, the players in a WINDOW hold to which the
advance has yet to come, those to which it has come, and the part's state. -/
structure Moving where
  items : List MoveItem
  windows : List Nat
  taken : List Nat
  s : State

/-- The fire point, when the advance carries the edge to it (R152), with the part of the advance that does. -/
def firePoint (a : Nat) (it : MoveItem) (b : Bag) : List (Nat × Point) :=
  match b.divert with
  | some d =>
    if it.fireOk = true ∧ b.state = .armed ∧ it.edge < d.fire ∧ d.fire ≤ it.edge + a then [(d.fire - it.edge, .fire)]
    else []
  | none => []

/-- The confirm deadline, when the advance brings it (R156). A count has already been reduced by the advance. -/
def deadlinePoint (a : Nat) (it : MoveItem) (b : Bag) : List (Nat × Point) :=
  match b.state, b.divert with
  | .diverting, some d =>
    match d.deadline with
    | .position p =>
      if it.lapDone = false ∧ it.edge < p ∧ p ≤ it.edge + a then [(p - it.edge, .deadline)] else []
    | .count n => if n ≤ 0 then [((n + a).toNat, .deadline)] else []
  | _, _ => []

/-- The end of the expected eye's window, when the edge passes it (R69): on the lap before the mark the edge runs
to L - 1 at most, after the mark it stands where the advance leaves it. -/
def missPoint (c : LoopCfg) (a : Nat) (it : MoveItem) (b : Bag) : List (Nat × Point) :=
  match b.expEye with
  | some { eye := k, lap := .this } =>
    match eyePos c k with
    | some q =>
      let w := q + tolerance c b.uncertain
      if it.lapDone then
        if w + c.len < it.edge + a then [(w + c.len + 1 - it.edge, .miss)] else []
      else if w < min (it.edge + a) (c.len - 1) then [(w + 1 - it.edge, .miss)] else []
    | none => []
  | _ => []

/-- The lap mark, when the edge passes it (R71). -/
def lapPoint (c : LoopCfg) (a : Nat) (it : MoveItem) : List (Nat × Point) :=
  if it.lapDone = false ∧ c.len ≤ it.edge + a then [(c.len - it.edge, .lap)] else []

/-- The points a record has yet to reach in the advance, each with its part of the advance. -/
def duePoints (c : LoopCfg) (a : Nat) (s : State) (it : MoveItem) : List (Nat × Point) :=
  match bagAt s it.bag with
  | some b =>
    if b.edge.isSome then firePoint a it b ++ deadlinePoint a it b ++ missPoint c a it b ++ lapPoint c a it else []
  | none => []

/-- The least part among a list of points. -/
def leastPart : List (Nat × Point) → Option Nat
  | [] => none
  | (n, _) :: r => match leastPart r with | some m => some (min n m) | none => some n

/-- The record whose point comes next, and that point's part: the least part, and the lowest index among
records whose points need the same part (R62). The records stand in index order. -/
def nextItem (c : LoopCfg) (a : Nat) (s : State) : List MoveItem → Option (Nat × MoveItem)
  | [] => none
  | it :: r =>
    match leastPart (duePoints c a s it), nextItem c a s r with
    | some n, some (m, jt) => if n ≤ m then some (n, it) else some (m, jt)
    | some n, none => some (n, it)
    | none, o => o

/-- A record's points at one part. -/
def pointsAt (c : LoopCfg) (a : Nat) (s : State) (n : Nat) (it : MoveItem) : List Point :=
  ((duePoints c a s it).filter fun x => decide (x.1 = n)).map Prod.snd

/-- Of the bags of one chute that reach their fire positions at the same part, the one standing earliest in the
fire queue (R152). R62's index order names the turn of one of them, and R152 the queue's; the bag fired at that turn is
the earliest in the queue, ahead of any third record's point between the two: DESIGN CHOICE (log 31). -/
def earliestFire (c : LoopCfg) (a : Nat) (s : State) (n : Nat) (it : MoveItem) (items : List MoveItem) : MoveItem :=
  match (bagAt s it.bag).bind (·.divert) with
  | some d =>
    let firing := items.filter fun x => decide (Point.fire ∈ pointsAt c a s n x)
    ((queueAt s d.chute).findSome? fun e => firing.find? fun x => decide (x.bag = e.bag)).getD it
  | none => it

/-- The items with one of them changed. -/
def updateItem (i : Nat) (f : MoveItem → MoveItem) (items : List MoveItem) : List MoveItem :=
  items.map fun x => if x.bag = i then f x else x

/-- A fire at player p within an advance of a. A player in a WINDOW hold may take the advance or the fire first
(R174), and so may one whose WINDOW hold the fire begins. A hold that the fire begins at another player, through a
trigger line, does not take the advance (DESIGN CHOICE, log 33). Where the advance taken first ends the whole play, the fire
is answered by R174's table on the player as the advance has left it, PLAYED when it is IDLE, and not kept pending as the
text under the table has it (DESIGN CHOICE, log 42). -/
def fireInAdvance (a p : Nat) (f : Fire) (m : Moving) : Moving × FireAnswer :=
  if p ∈ m.windows then
    let (k, s1) := pick 2 m.s
    if k = 0 then
      let r := playerFire p f (playerAdvance a p s1)
      ({ m with s := r.1, windows := m.windows.erase p, taken := p :: m.taken }, r.2)
    else
      let r := playerFire p f s1
      ({ m with s := r.1 }, r.2)
  else
    let r := playerFire p f m.s
    if inWindow r.1 p && !inWindow m.s p && decide (p ∉ m.taken) then
      let (k, s1) := pick 2 r.1
      if k = 0 then ({ m with s := s1, taken := p :: m.taken }, r.2)
      else ({ m with s := s1, windows := p :: m.windows }, r.2)
    else ({ m with s := r.1 }, r.2)

/-- A bag whose diverter took its fire (R153, step 3): DIVERTING, the next firing rank, a count deadline
less the overshoot. -/
def startDivert (i overshoot : Nat) (d : Divert) (s : State) : State :=
  let dl := match d.deadline with
    | .count n => Deadline.count (n - overshoot)
    | .position p => .position p
  modifyBag i (fun b => { b with state := .diverting, divert := some { d with deadline := dl } })
    (setQueue d.chute (rankEntry i (queueAt s d.chute)) s)

/-- The fire of an ARMED bag (R153): takeaway, diverter, and then DIVERTING, or missed at once when the diverter
refuses. -/
def fireBag (a : Nat) (it : MoveItem) (m : Moving) : Moving :=
  let m := { m with items := updateItem it.bag (fun x => { x with fireOk := false }) m.items }
  match (bagAt m.s it.bag).bind (·.divert) with
  | some d =>
    match chuteAt m.s d.chute with
    | some r =>
      let f : Fire := { profile := r.profile, window := d.window, margin := r.margin }
      let m1 := match r.takeaway with
        | some p => (fireInAdvance a p f m).1
        | none => m
      let (m2, ans) := fireInAdvance a r.diverter f m1
      if ans = .refused then
        let missed := fun s => offerBag it.bag (missCore it.bag (modifyBag it.bag (fun b => { b with state := .diverting }) s))
        { m2 with s := withRounds missed m2.s }
      else { m2 with s := startDivert it.bag (it.edge + a - d.fire) d m2.s }
    | none => m
  | none => m

/-- The edge a miss places the next eye on: L - 1 while the record has still to pass the lap mark, its edge as it
stands otherwise: DEDUCED (log 13). -/
def placementEdge (c : LoopCfg) (a : Nat) (it : MoveItem) : Nat :=
  if it.lapDone then (it.edge + a) % c.len else min (it.edge + a) (c.len - 1)

/-- A miss at the expected eye within an advance, the next eye placed from the eye after it (R69). -/
def missInAdvance (c : LoopCfg) (a : Nat) (it : MoveItem) (s : State) : State :=
  match (bagAt s it.bag).bind (·.expEye) with
  | some x => withRounds (eyeMiss it.bag (placeBag it.bag (x.eye + 1) (placementEdge c a it))) s
  | none => s

/-- A record's edge within the loop again, 0 to L - 1 (R62). -/
def wrapEdge (l : Nat) (b : Bag) : Bag := { b with edge := b.edge.map fun e => e % l }

/-- One point of a record. At the lap mark its edge wraps, and then it passes the mark. -/
def takePoint (c : LoopCfg) (a n : Nat) (it : MoveItem) (k : Point) (m : Moving) : Moving :=
  match k with
  | .fire => fireBag a (earliestFire c a m.s n it m.items) m
  | .deadline => { m with s := missDivert it.bag m.s }
  | .miss => { m with s := missInAdvance c a it m.s }
  | .lap =>
    { m with s := withRounds (fun s => lapMark it.bag (modifyBag it.bag (wrapEdge c.len) s)) m.s,
             items := updateItem it.bag (fun x => { x with lapDone := true }) m.items }

/-- The points of an advance taken one after another; two points of one record at one position may be taken in
either order (R62). The count bounds the points: at most eight for each record. -/
def takePoints (c : LoopCfg) (a : Nat) : Nat → Moving → Moving
  | 0, m => m
  | n + 1, m =>
    match nextItem c a m.s m.items with
    | some (part, it) =>
      let ks := pointsAt c a m.s part it
      let (k, s1) := pick ks.length m.s
      takePoints c a n (takePoint c a part it (ks[k]?.getD .lap) { m with s := s1 })
    | none => m

/-- A record's edge moved by an advance, and the count deadline of a DIVERTING record reduced by it (R62, R156). The edge
stays a plain number, at or beyond L where the record has its lap mark still to pass, until it passes it: no chute is
reachable before the lap mark (R149), while every distance is taken modulo L. -/
def moveBag (a : Nat) (b : Bag) : Bag :=
  { b with
    edge := b.edge.map fun e => e + a,
    divert :=
      match b.state, b.divert with
      | .diverting, some { chute := c, fire := f, window := w, deadline := .count n } =>
        some { chute := c, fire := f, window := w, deadline := .count (n - a) }
      | _, d => d }

/-- The bag records changed, one by one. -/
def mapBags (f : Bag → Bag) (s : State) : State := { s with bags := s.bags.map fun (i, o) => (i, o.map f) }

/-- The records that move, with their edges before the advance. -/
def moveItems (s : State) : List MoveItem :=
  (liveBags s).filterMap fun (i, b) =>
    b.edge.map fun e => { bag := i, edge := e, fireOk := decide (b.state = .armed), lapDone := false }

/-- The open loop-eye measurements moved on; one that reaches the maximum bag length closes (R68). -/
def advanceLoopMeas (max a : Nat) (s : State) : State :=
  { s with loopMeas := s.loopMeas.filterMap fun (k, o) =>
      match o with
      | some m => if max ≤ m.m + a then none else some (k, some { m with m := m.m + a })
      | none => none }

/-- The induct count of the induction in flight run down by an advance, with its timeout (R48). -/
def advanceInduct (a : Nat) (s : State) : State :=
  match s.gate.inFlight with
  | some f =>
    let s := withGate (fun g => { g with inFlight := some { f with remaining := f.remaining - a } }) s
    if f.remaining ≤ a then inductTimeoutNow s else s
  | none => s

/-- The entry measurement moved on by an advance, with its OVERSIZE decision (R51, R52). -/
def advanceEntry (max a : Nat) (s : State) : State :=
  match s.gate.entryMeas with
  | some m =>
    let s := withGate (fun g => { g with entryMeas := some { m with m := m.m + a } }) s
    if max ≤ m.m + a then entryOversizeNow s else s
  | none => s

/-- The advance at the players still to take it (R177): in increasing player number, the order R177 gives for the entry to
BLIND alone (DESIGN CHOICE, log 32). A WINDOW hold that begins within the advance's own event, by a line taken or by an
earlier hold's end, does not take that advance (DESIGN CHOICE, log 33). -/
def advancePlayers (a : Nat) (windows : List Nat) (s : State) : State :=
  ((List.range 40).filter fun p => decide (p ∈ windows)).foldl (fun s p => playerAdvance a p s) s

/-- An advance of a counts, announced to the four blocks (R29), in the order in which R29 names them: DESIGN CHOICE (log 12). An induction
granted within the event does not have the advance counted against it (R46). -/
def applyAdvance (a : Nat) (s : State) : State :=
  match s.tracker.cfg with
  | some c =>
    let flying := s.gate.inFlight.isSome
    let items := moveItems s
    let m := takePoints c a (8 * items.length)
      { items := items, windows := windowPlayers s, taken := [], s := mapBags (moveBag a) s }
    let s1 := advancePlayers a m.windows (advanceLoopMeas c.maxBag a (mapBags (wrapEdge c.len) m.s))
    let s2 := if flying then advanceInduct a s1 else s1
    grantAttempt (advanceEntry c.maxBag a s2)
  | none => s

end Sys2Proof.Machine
end

