-- ==== Sys2Proof/Machine/Tracker.lean ====
section
/-! DEFINITION. The Loop Tracker (chapter 2): the sequence check, samples, the speed estimate, the track states, the
silence timer and the stamping of events. -/

namespace Sys2Proof.Machine

/-- The speed estimate after a sample of advance a (R31): a quarter of the way to 16a, rounded toward minus infinity,
kept within 0 to 16368. -/
def nextSpeed (v a : Nat) : Nat := (min 16368 (max 0 ((v : Int) + (16 * (a : Int) - v) / 4))).toNat

/-- A history entry made; the oldest is removed when there are more than 16 (R30). -/
def pushHistory (e : HistEntry) (h : List HistEntry) : List HistEntry := (h ++ [e]).drop ((h.length + 1) - 16)

/-- P moved by an advance, and the advance announced when it is 1 or more (R29). -/
def moveBelt (a : Nat) (s : State) : State :=
  if a = 0 then s
  else applyAdvance a (withTracker (fun t => { t with pos := (t.pos + a) % (t.cfg.map (·.len)).getD 0 }) s)

/-- The history entry of a sample. -/
def logSample (q a : Nat) (s : State) : State :=
  withTracker (fun t => { t with history := pushHistory { seq := q, pos := t.pos, adv := a } t.history }) s

/-- Every positioned record marked UNCERTAIN (R63). -/
def markUncertain (s : State) : State :=
  mapBags (fun b => if b.edge.isSome then { b with uncertain := true } else b) s

/-- Entry to BLIND from TRACKING (R34), announced to the Bag Table (R63), the Divert Timer (R159) and the Player Bank
(R177), and reported. -/
def enterBlind (s : State) : State :=
  let s1 := markUncertain (withTracker (fun t => { t with state := .blind, clean := 0 }) s)
  pushReport (.track true) (blindWindows (disarmAll (allArmed s1) s1))

/-- A cause of R34: BLIND is entered from TRACKING, and in BLIND the clean run count is set to 0. -/
def loseTrack (s : State) : State :=
  if s.tracker.state = .tracking then enterBlind s else withTracker (fun t => { t with clean := 0 }) s

/-- A track state change to TRACKING, announced and reported (R32, R35): the chutes it makes available get their
rounds, and then the gate makes a grant attempt. The manual gives the two receivers no order: DESIGN CHOICE (log 38). -/
def enterTracking (s : State) : State :=
  pushReport (.track false)
    (grantAttempt (withRounds (withTracker fun t => { t with state := .tracking, clean := 0 }) s))

/-- The missing sample q extrapolated at a counts (R26). -/
def extrapolate (a q : Nat) (s : State) : State := logSample q a (moveBelt a s)

/-- The k samples before sequence q extrapolated in ascending order, at floor(V/16) with V as it stands before the
frame (R26). -/
def extrapolateAll (k q : Nat) (s : State) : State :=
  let a := s.tracker.speed / 16
  (List.range k).foldl (fun s j => extrapolate a ((q + 256 - k + j) % 256) s) s

/-- A received delta after the clamp of R27. -/
def clampDelta (d : Int) (s : State) : Int × State := if 1023 < d then (1023, bump .overspeed s) else (d, s)

/-- Steps 4 and 5 of R24 on a clamped delta (R28, R29): the advance, whether the sample overran the debt, and the
state with the belt moved. -/
def applyDelta (d : Int) (s : State) : Nat × Bool × State :=
  if d < 0 then
    let debt := s.tracker.debt + (-d).toNat
    if debt ≤ 255 then (0, false, withTracker (fun t => { t with debt := debt }) s)
    else (0, true, loseTrack (withTracker (fun t => { t with debt := 0 }) s))
  else
    let n := d.toNat
    let a := n - s.tracker.debt
    (a, false, moveBelt a (withTracker (fun t => { t with debt := t.debt - min n t.debt }) s))

/-- The processing of a received sample, steps 3 to 7 of R24: whether it overran the debt, and the state. -/
def processSample (q : Nat) (d : Int) (s : State) : Bool × State :=
  let (d1, s1) := clampDelta d s
  let (a, overrun, s2) := applyDelta d1 s1
  (overrun, logSample q a (withTracker (fun t => { t with speed := nextSpeed t.speed a }) s2))

/-- The clean run count after a received frame in BLIND (R35): a clean frame adds one, and the eighth returns the
tracker to TRACKING; any other frame sets it to 0. -/
def countClean (clean : Bool) (s : State) : State :=
  if s.tracker.state = .blind then
    if clean then
      if s.tracker.clean + 1 = 8 then enterTracking s
      else withTracker (fun t => { t with clean := t.clean + 1 }) s
    else withTracker (fun t => { t with clean := 0 }) s
  else s

/-- The first TRACK frame in NOT_READY with the configuration loaded (R32). -/
def firstTrack (q : Nat) (d : Int) (s : State) : State :=
  let s1 := (processSample q d (enterTracking s)).2
  withTracker (fun t => { t with expected := some ((q + 1) % 256), clean := 0, silence := true }) s1

/-- A TRACK frame in TRACKING or BLIND (R24 to R26, R33, R35), e being the expected sequence. -/
def nextTrack (e q : Nat) (d : Int) (s : State) : State :=
  let k := (q + 256 - e % 256) % 256
  if 128 ≤ k then bump .stale s
  else
    let s1 := if 4 ≤ k then loseTrack s else extrapolateAll k q s
    let (overrun, s2) := processSample q d s1
    let s3 := countClean (decide (k = 0) && !overrun) s2
    withTracker (fun t => { t with expected := some ((q + 1) % 256), silence := true }) s3

/-- A TRACK frame taken (R24). -/
def takeTrack (q : Nat) (d : Int) (s : State) : State :=
  match s.tracker.cfg with
  | none => s
  | some _ =>
    match s.tracker.state with
    | .notReady => firstTrack q d s
    | _ => nextTrack (s.tracker.expected.getD q) q d s

/-- The silence timer expires (R33); it restarts. It does nothing while it is stopped. -/
def expireSilence (s : State) : State := if s.tracker.silence then loseTrack s else s

/-- The history entries under a sequence number, each with the sum of the advances made after it (R36). -/
def stampEntries (q : Nat) : List HistEntry → List (Nat × Nat)
  | [] => []
  | e :: r =>
    let rest := stampEntries q r
    if e.seq = q then (e.pos, (r.map (·.adv)).sum) :: rest else rest

/-- The stamp of an event (R36, step 2 and 3): the position and the advance since, none when it is stale. Where
two entries share the number, which one is read is left open. -/
def stampOf (q : Nat) (s : State) : Option (Nat × Nat) × State :=
  let es := stampEntries q s.tracker.history
  let (k, s1) := pick es.length s
  (es[k]?, s1)

/-- The tracker at RESTART (R23): as after power-on reset, the loop configuration kept. -/
def restartTracker (s : State) : State := withTracker (fun t => { resetTracker with cfg := t.cfg }) s

end Sys2Proof.Machine
end

