-- ==== Sys2Proof/Machine/Cages.lean ====
section
/-! DEFINITION. The Chute Allocator's cages (section 7.6) and the Divert Timer's confirmations (section 8.4): CAGE frames,
FULL, removal, loading, LOOSE, stray landings and unexplained blocks. -/

namespace Sys2Proof.Machine

/-- A CAGESIG frame to chute c's cage node (R133). -/
def pushCagesig (c : Nat) (g : CageSig) (s : State) : State :=
  match chuteAt s c with
  | some r => pushControl { dest := r.cageNode, msg := .cagesig g } s
  | none => s

/-- Chute c's cage record changed. -/
def modifyCage (c : Nat) (f : Cage → Cage) (s : State) : State :=
  modifyChute c (fun r => { r with cage := f r.cage }) s

/-- The cage of a chute becomes FULL (R135): its ARMED bags are disarmed and offered, CAGESIG FULL is built and a
CAGE_FULL report queued. -/
def cageBecomesFull (c : Nat) (w : FullCause) (s : State) : State :=
  let s1 := modifyCage c (fun g => { g with state := .full, cause := w }) s
  let s2 := pushCagesig c .full (disarmAll (armedAt s1 c) s1)
  match chuteAt s2 c with
  | some r => pushReport (.cageFull c r.cage.id r.cls r.cage.loaded.length r.cage.cause) s2
  | none => s2

/-- Steps 2 to 6 of R137: the CAGE_CLOSED report, the history entry, ABSENT, CAGESIG CLOSED, and a POOLED chute's
class cleared. -/
def closeCage (c : Nat) (r : Chute) (s : State) : State :=
  let s1 := pushReport (.cageClosed c r.cage.id r.cls r.cage.loaded.length r.cage.unknown) s
  let h : ClosedCage :=
    { chute := c, id := r.cage.id, cls := r.cls, loaded := r.cage.loaded, unknown := r.cage.unknown, cause := r.cage.cause }
  let s2 := modifyCage c (fun _ => absentCage) { s1 with closedCages := (h :: s1.closedCages).take 8 }
  modifyChute c (fun r => if r.mode = .pooled then { r with cls := none } else r) (pushCagesig c .closed s2)

/-- A REMOVED event at a chute whose cage is OPEN or FULL (R137). -/
def removeCage (c : Nat) (r : Chute) (s : State) : State :=
  let is := armedAt s c
  offerBags is (closeCage c r (is.foldl (fun s i => disarm i s) s))

/-- A PRESENT event at a chute whose cage is ABSENT (R134). -/
def openCage (c id : Nat) (s : State) : State :=
  pushCagesig c .loading (modifyCage c (fun _ => { absentCage with state := .opened, id := id }) s)

/-- A PRESENT event (R134). -/
def cagePresent (c id : Nat) (r : Chute) (s : State) : State :=
  if r.cage.state = .absent then withRounds (openCage c id) s
  else withRounds (openCage c id) (withRounds (removeCage c r) s)

/-- A FULL_ON event (R136). -/
def cageFullOn (c : Nat) (r : Chute) (s : State) : State :=
  match r.cage.state with
  | .absent => s
  | .opened => withRounds (fun s => cageBecomesFull c .sensor (modifyCage c (fun g => { g with sensor := true }) s)) s
  | .full => modifyCage c (fun g => { g with sensor := true }) s

/-- A FULL_OFF event (R136). -/
def cageFullOff (c : Nat) (r : Chute) (s : State) : State :=
  match r.cage.state with
  | .absent => s
  | .opened => modifyCage c (fun g => { g with sensor := false }) s
  | .full =>
    if r.cage.loaded.length < r.capacity then
      withRounds (fun s => pushCagesig c .loading
        (modifyCage c (fun g => { g with sensor := false, state := .opened, cause := .none }) s)) s
    else modifyCage c (fun g => { g with sensor := false }) s

/-- A REMOVED event (R137). -/
def cageRemoved (c : Nat) (r : Chute) (s : State) : State :=
  if r.cage.state = .absent then s else withRounds (removeCage c r) s

/-- A CAGE frame of chute c (R133): no effect unless the chute is loaded with role SORT. -/
def takeCage (c : Nat) (e : CageEvent) (s : State) : State :=
  match chuteAt s c with
  | some r =>
    if r.role = .sort then
      match e with
      | .present id => cagePresent c id r s
      | .fullOn => cageFullOn c r s
      | .fullOff => cageFullOff c r s
      | .removed => cageRemoved c r s
    else s
  | none => s

/-! ### Confirmation (R154) -/

/-- The cabin-done test of a confirmation (R139), with its DONE_SET update and its report. -/
def cabinDoneTest (o : Owned) (c cageId : Nat) (s : State) : State :=
  match cabinLookup s o.sailing o.code with
  | some (_, r) =>
    if r.expected ≠ 0 ∧ serialCount r.loaded = r.expected ∧ r.done = false then
      pushReport (.cabinDone o.sailing r.number r.expected c cageId) (tallyUpdate .doneSet o.sailing o.code s)
    else s
  | none => s

/-- The EXTRA flag of a LOADED report (R138, step 4). -/
def extraFlag (s : State) (o : Owned) : Bool :=
  match cabinLookup s o.sailing o.code with
  | some (_, r) => decide (r.expected < serialField o.code)
  | none => false

/-- A pooled chute with no class takes the class of the bag that lands in it (R138, step 2). -/
def landClass (t : Option Target) (r : Chute) : Chute :=
  match t with
  | some (.sort k) => if r.mode = .pooled ∧ r.cls = none then { r with cls := some k } else r
  | _ => r

/-- A cage whose count reaches the capacity while OPEN becomes FULL by COUNT (R138, step 6). -/
def countFull (c : Nat) (s : State) : State :=
  match chuteAt s c with
  | some r =>
    if r.cage.state = .opened ∧ r.cage.loaded.length = r.capacity then cageBecomesFull c .count s else s
  | none => s

/-- A bag with its owned code confirmed into an OPEN or FULL cage (R138). -/
def loadBag (i c cageId : Nat) (b : Bag) (o : Owned) (s : State) : State :=
  let s1 := modifyChute c (landClass b.target)
    (modifyCage c (fun g => { g with loaded := g.loaded ++ [o.code] }) s)
  let s2 := tallyUpdate .loadedSet o.sailing o.code s1
  let s3 := freeBag i .loaded (fun d => .loaded d c cageId (decide (o.code ∈ s2.holds)) (extraFlag s2 o)) s2
  countFull c (cabinDoneTest o c cageId s3)

/-- The landing of bag i at chute c by the chute's role (R154, step 2), its entry having left the queue. The
arms in which target and role disagree change nothing: DEDUCED (log 27), R154 says they agree. -/
def landBag (i c : Nat) (r : Chute) (b : Bag) (s : State) : State :=
  match r.role with
  | .sort =>
    if r.cage.state = .absent then freeBag i .loose (fun d => .loose d c) s
    else
      match b.owned with
      | some o => loadBag i c r.cage.id b o s
      | none => s
  | .stray =>
    match b.target with
    | some (.stray w) =>
      let (n, s1) := addStray w b.lastScan (b.len.getD 0) s
      freeBag i .strayed (fun d => .strayed d c n b.lastScan) s1
    | _ => s
  | .overflow => freeBag i .overflowed (fun d => .overflowed d c) s
  | .disabled => s

/-- The confirmation of DIVERTING bag i at chute c (R154, steps 1 and 2). -/
def confirmBag (i c : Nat) (s : State) : State :=
  match chuteAt s c, bagAt s i with
  | some r, some b => landBag i c r b (setQueue c (removeEntry i (queueAt s c)) s)
  | _, _ => s

/-- A BLOCK at a chute eye that no DIVERTING bag explains (R155, R141). -/
def unexplainedBlock (c : Nat) (s : State) : State :=
  let s1 := bump .ghosts s
  match chuteAt s1 c with
  | some r =>
    if r.role = .sort ∧ r.cage.state ≠ .absent then
      modifyCage c (fun g => { g with unknown := min 255 (g.unknown + 1) }) s1
    else s1
  | none => s1

/-- An event at the chute eye of chute c (R154): a CLEAR has no effect. -/
def chuteEye (c : Nat) (edge : Edge) (s : State) : State :=
  match edge with
  | .clear => s
  | .block =>
    match oldestFired s c with
    | some i => withRounds (confirmBag i c) s
    | none => unexplainedBlock c s

end Sys2Proof.Machine
end

