-- ==== Sys2Proof/Machine/Eyes.lean ====
section
/-! DEFINITION. Entry-eye and loop-eye events (sections 3.4 and 4.3), and the stamping of EYE frames (R36). -/

namespace Sys2Proof.Machine

/-! ### The entry eye -/

/-- The length a CLEAR gives: m - s, taken as 1 if below 1 (R51); not clamped above: DEDUCED (log 22). -/
def measuredLen (m s : Nat) : Nat := max 1 (m - s)

/-- The open entry measurement closed by a CLEAR with advance since stamp adv, or by the BLOCK that shows the CLEAR
was lost (R51). -/
def closeEntry (adv : Nat) (s : State) : State :=
  match s.gate.entryMeas with
  | some m =>
    modifyBag m.bag (fun b => { b with len := some (measuredLen m.m adv) })
      (withGate (fun g => { g with entryMeas := none }) s)
  | none => s

/-- The bag record an eye's ghost starts as (R59). -/
def ghostBag (c : LoopCfg) (blind : Bool) (pos from_ : Nat) : Bag :=
  { state := .unread, station := none, edge := some pos, len := some c.maxBag, recirc := 0,
    expEye := placeEye c from_ pos (tolerance c blind), misses := 0, uncertain := blind, oversize := false,
    lastScan := [], owned := none, target := none, divert := none }

/-- The track state is BLIND. -/
def isBlind (s : State) : Bool := decide (s.tracker.state = .blind)

/-- The INDUCTING record positioned by the entry eye (R49, steps 2 to 4). -/
def positionBag (c : LoopCfg) (i adv : Nat) (s : State) : State :=
  let e := (c.entryPos + adv) % c.len
  let s1 := modifyBag i (fun b =>
    { b with state := .unread, edge := some e, len := some c.maxBag, uncertain := isBlind s }) s
  withGate (fun g => { g with inFlight := none, entryMeas := some { bag := i, m := adv } }) (placeBag i 1 e s1)

/-- A positioned record that owns a paired code is routed at once (R113). -/
def routePaired (i : Nat) (s : State) : State :=
  match (bagAt s i).bind (·.owned) with
  | some o => withRounds (giveTarget i (ownedTarget s o)) s
  | none => s

/-- A BLOCK at the entry eye with no induction in flight (R50). -/
def entryGhost (c : LoopCfg) (adv : Nat) (s : State) : State :=
  let s1 := bump .ghosts s
  match createBag (ghostBag c (isBlind s) ((c.entryPos + adv) % c.len) 1) s1 with
  | some (i, s2) => withGate (fun g => { g with entryMeas := some { bag := i, m := adv } }) s2
  | none => s1

/-- A BLOCK at the entry eye (R49, R50). -/
def entryBlock (c : LoopCfg) (adv : Nat) (s : State) : State :=
  let s1 := closeEntry adv s
  match s1.gate.inFlight with
  | some f => grantAttempt (routePaired f.bag (positionBag c f.bag adv s1))
  | none => grantAttempt (entryGhost c adv s1)

/-- A CLEAR at the entry eye (R51). -/
def entryClear (adv : Nat) (s : State) : State :=
  match s.gate.entryMeas with
  | some _ => grantAttempt (closeEntry adv s)
  | none => s

/-! ### Loop eyes -/

/-- The error of a record with edge e at an eye (R64): the distance from the predicted edge at the stamp to the
eye, d when d is at most L - d, and d - L otherwise. -/
def eyeError (l e q adv : Nat) : Int :=
  let g := downstream l adv e
  let d := downstream l g q
  if d ≤ l - d then (d : Int) else (d : Int) - l

/-- A record's error at eye k, when the record is a candidate for it (R64). -/
def candidate (c : LoopCfg) (k q adv : Nat) (b : Bag) : Option Int :=
  match b.edge with
  | some e =>
    let err := eyeError c.len e q adv
    if b.state ≠ .inducting ∧ b.expEye = some { eye := k, lap := .this } ∧ err.natAbs ≤ tolerance c b.uncertain then
      some err
    else none
  | none => none

/-- One candidate before another (R64): the smaller magnitude, then the smaller error, then the lower index. -/
def errorBefore (x y : Nat × Int) : Bool :=
  decide (x.2.natAbs < y.2.natAbs) ||
    (decide (x.2.natAbs = y.2.natAbs) && (decide (x.2 < y.2) || (decide (x.2 = y.2) && decide (x.1 < y.1))))

/-- The first of a list in an order. -/
def firstBy {α : Type} (before : α → α → Bool) : List α → Option α
  | [] => none
  | x :: r =>
    match firstBy before r with
    | some y => if before y x then some y else some x
    | none => some x

/-- The record a BLOCK at loop eye k matches, with its error (R64). -/
def matchEye (c : LoopCfg) (k q adv : Nat) (s : State) : Option (Nat × Int) :=
  firstBy errorBefore ((liveBags s).filterMap fun (i, b) => (candidate c k q adv b).map fun e => (i, e))

/-- The measurement of loop eye k opened or closed. -/
def setMeasure (k : Nat) (m : Option Measure) (s : State) : State := { s with loopMeas := tablePut none s.loopMeas k m }

/-- The measurement of loop eye k. -/
def measureAt (s : State) (k : Nat) : Option Measure := tableGet none s.loopMeas k

/-- What a correction of bag i's edge from e0 to e1 with error err crosses (R66): a fire position and a deadline are
crossed forward alone. -/
def checkCrossings (c : LoopCfg) (i e0 e1 : Nat) (err : Int) (s : State) : State :=
  match bagAt s i with
  | some b =>
    if 0 < err ∧ e1 < e0 then
      let s1 := setExpEye i (firstEye c .next) s
      let s2 :=
        match b.state, b.divert with
        | .armed, _ => disarm i s1
        | .diverting, some { chute := _, fire := _, window := _, deadline := .position _ } => missCore i s1
        | _, _ => s1
      lapMark i s2
    else
      match b.state, b.divert with
      | .armed, some d => if 0 < err ∧ e0 < d.fire ∧ d.fire ≤ e1 then offerBag i (disarm i s) else s
      | .diverting, some { chute := _, fire := _, window := _, deadline := .position p } =>
        if 0 < err ∧ e0 < p ∧ p ≤ e1 then offerBag i (missCore i s) else s
      | _, _ => s
  | none => s

/-- A match of bag i at loop eye k (R65). -/
def matchBag (c : LoopCfg) (k q adv i : Nat) (err : Int) (s : State) : State :=
  match bagAt s i with
  | some b =>
    let e0 := b.edge.getD 0
    let e1 := (q + adv) % c.len
    let s1 := modifyBag i (fun b => { b with edge := some e1, misses := 0, uncertain := false }) s
    let s2 := placeBag i (k + 1) e1 s1
    let s3 := if b.oversize then s2 else setMeasure k (some { bag := i, m := adv }) s2
    grantAttempt (withRounds (checkCrossings c i e0 e1 err) s3)
  | none => s

/-- A ghost at loop eye k (R67). -/
def loopGhost (c : LoopCfg) (k q adv : Nat) (s : State) : State :=
  let s1 := bump .ghosts s
  match createBag (ghostBag c (isBlind s) ((q + adv) % c.len) (k + 1)) s1 with
  | some (i, s2) => grantAttempt (setMeasure k (some { bag := i, m := adv }) s2)
  | none => s1

/-- A BLOCK at loop eye k (R64 to R68): an open measurement of the eye is dropped first. -/
def loopBlock (c : LoopCfg) (k q adv : Nat) (s : State) : State :=
  let s1 := setMeasure k none s
  match matchEye c k q adv s1 with
  | some (i, err) => matchBag c k q adv i err s1
  | none => loopGhost c k q adv s1

/-- A CLEAR at loop eye k (R68). -/
def loopClear (c : LoopCfg) (k adv : Nat) (s : State) : State :=
  match measureAt s k with
  | some m =>
    grantAttempt (modifyBag m.bag
      (fun b => if b.oversize then b else { b with len := some (min c.maxBag (measuredLen m.m adv)) }) (setMeasure k none s))
  | none => s

/-! ### EYE frames -/

/-- An EYE event handed to its owner with the advance since its stamp (R36, step 4). -/
def handEye (c : LoopCfg) (id : EyeId) (edge : Edge) (adv : Nat) (s : State) : State :=
  match id, edge with
  | .entry, .block => entryBlock c adv s
  | .entry, .clear => entryClear adv s
  | .loop k, .block => (match eyePos c k with | some q => loopBlock c k q adv s | none => s)
  | .loop k, .clear => loopClear c k adv s
  | .chute n, e => chuteEye n e s

/-- The eye is configured (R36, step 1): a loop eye needs a position in the loop configuration. -/
def eyeConfigured (c : LoopCfg) : EyeId → Bool
  | .loop k => (eyePos c k).isSome
  | _ => true

/-- An EYE frame stamped and handed over (R36, R38). -/
def takeEye (id : EyeId) (edge : Edge) (stamp : Nat) (s : State) : State :=
  match s.tracker.cfg with
  | none => bump .stale s
  | some c =>
    if eyeConfigured c id then
      match stampOf stamp s with
      | (some (_, adv), s1) => handEye c id edge adv s1
      | (none, s1) => bump .stale s1
    else bump .unknownSources s

end Sys2Proof.Machine
end

