-- ==== Sys2Proof/Machine/Resolver.lean ====
section
/-! DEFINITION. The Tag Resolver (chapter 6): SCAN stamping and attribution, the resolution order, re-scans, and the hold
list. -/

namespace Sys2Proof.Machine

/-! ### Attribution of a scan (sections 2.6 and 6.1) -/

/-- The position of a reader, if it is present (R20). -/
def readerPos (c : LoopCfg) (reader : Nat) : Option Nat := if reader = 0 then c.reader0 else c.reader1

/-- The upstream distance from a record's predicted edge at the stamp to the reader, when the record is a candidate
of the scan (R104). -/
def scanDistance (c : LoopCfg) (r adv : Nat) (b : Bag) : Option Nat :=
  match b.edge, b.len with
  | some e, some lb =>
    let d := downstream c.len r (downstream c.len adv e)
    if (b.state = .unread ∨ b.state = .routed ∨ b.state = .armed) ∧ d ≤ lb - 1 then some d else none
  | _, _ => none

/-- One candidate before another (R104): the smaller distance, then the lower index. -/
def distanceBefore (x y : Nat × Nat) : Bool := decide (x.2 < y.2) || (decide (x.2 = y.2) && decide (x.1 < y.1))

/-- The record a scan belongs to (R104). -/
def attributeScan (c : LoopCfg) (r adv : Nat) (s : State) : Option Nat :=
  (firstBy distanceBefore ((liveBags s).filterMap fun (i, b) => (scanDistance c r adv b).map fun d => (i, d))).map Prod.fst

/-- Equal codes merged into the first of them (R105). -/
def mergeCodes : List TagCode → List TagCode
  | [] => []
  | x :: xs => x :: (mergeCodes xs).filter fun y => decide (y ≠ x)

/-- The valid code list of a scan (R105). -/
def validCodes (codes : List TagCode) : List TagCode := mergeCodes (codes.filter wellFormedCode)

/-- The misreads of a scan counted one by one (R105). -/
def countMisreads (codes : List TagCode) (s : State) : State :=
  (codes.filter fun x => !wellFormedCode x).foldl (fun s _ => bump .misreads s) s

/-! ### The resolution order (section 6.2) -/

/-- Steps 1 to 4 for record i and one code, then the routing checks (R108 to R110): the target they produce, and
the state with the ownership taken when step 4 is reached. -/
def resolveCode (i : Nat) (code : TagCode) (s : State) : Target × State :=
  match sailingLookup s code with
  | none => (.stray .noMatch, s)
  | some g =>
    match cabinLookup s g code with
    | none => (.stray .noMatch, s)
    | some (p, r) =>
      if hasSerial (seenNow s g (p, r)) (serialField code) then (.stray .duplicate, s)
      else
        let s1 := modifyBag i (fun b => { b with owned := some { code := code, sailing := g, deck := r.deck } })
          (tallyUpdate .seenSet g code s)
        (routeTarget s1 g code r, s1)

/-- A single valid code at a record that owns none: the order runs and its target is given (R111). An OVERSIZE
record, and a record that already holds the target produced, keep their target: DEDUCED (log 28). -/
def resolveBag (i : Nat) (b : Bag) (code : TagCode) (s : State) : State :=
  let r := resolveCode i code s
  if b.oversize ∨ b.target = some (allowedTarget s b r.1) then r.2 else giveTarget i r.1 r.2

/-- A target is a SORT target. -/
def isSort : Option Target → Bool
  | some (.sort _) => true
  | _ => false

/-- The outcome of an attributed scan with its valid code list (R106, R107). -/
def scanOutcome (i : Nat) (b : Bag) (valid : List TagCode) (s : State) : State :=
  match b.owned with
  | some o =>
    if valid.any (fun x => decide (x ≠ o.code)) && isSort b.target then giveTarget i (.stray .ambiguous) s else s
  | none =>
    match valid with
    | [] => s
    | [x] => resolveBag i b x s
    | _ => if b.state = .unread then giveTarget i (.stray .ambiguous) s else s

/-- An attributed scan: validation, merging, last-scan codes, outcome (R105 to R107). -/
def scanBag (i : Nat) (codes : List TagCode) (s : State) : State :=
  match bagAt s i with
  | some b =>
    let valid := validCodes codes
    scanOutcome i b valid (modifyBag i (fun b => { b with lastScan := valid }) (countMisreads codes s))
  | none => s

/-- A SCAN frame of a reader, stamped (R37) and taken by the resolver (R104). -/
def takeScan (reader stamp : Nat) (codes : List TagCode) (s : State) : State :=
  match s.tracker.cfg with
  | none => bump .stale s
  | some c =>
    match readerPos c reader with
    | none => bump .unattached s
    | some r =>
      match stampOf stamp s with
      | (some (_, adv), s1) =>
        match attributeScan c r adv s1 with
        | some i => withRounds (scanBag i codes) s1
        | none => bump .unattached s1
      | (none, s1) => bump .stale s1

/-! ### The hold list (section 6.4) -/

/-- A HOLD_ACK to the source of the HOLD frame (R118). -/
def ackHold (src : Nat) (code : TagCode) (st : HoldStatus) (s : State) : State :=
  pushControl { dest := src, msg := .holdAck code st } s

/-- The live record that owns a code (R116). Two records can own one code under different sailing indices: the one with
the lowest index is then taken, DESIGN CHOICE (log 39). -/
def ownerBag (s : State) (code : TagCode) : Option (Nat × Bag) :=
  (liveBags s).find? fun (_, b) => decide (b.owned.map (·.code) = some code)

/-- A newly held code's live owner turned away from its cage (R116): of two owners the first alone (log 39). -/
def strayHeld (code : TagCode) (s : State) : State :=
  match ownerBag s code with
  | some (i, b) =>
    if (b.state = .routed ∨ b.state = .armed) ∧ isSort b.target = true then
      withRounds (giveTarget i (.stray .held)) s
    else s
  | none => s

/-- A code placed on hold at the tail of the list, and its owner acted on (R115, R116). -/
def joinHold (code : TagCode) (s : State) : State := strayHeld code { s with holds := s.holds ++ [code] }

/-- A HOLD frame with action HOLD (R115). -/
def takeHold (src : Nat) (code : TagCode) (s : State) : State :=
  if wellFormedCode code then
    if code ∈ s.holds then ackHold src code .already s
    else if s.holds.length < 32 then ackHold src code .held (joinHold code s)
    else ackHold src code .full s
  else ackHold src code .badCode (bump .misreads s)

/-- A HOLD frame with action RELEASE (R117). -/
def takeRelease (src : Nat) (code : TagCode) (s : State) : State :=
  if wellFormedCode code then
    if code ∈ s.holds then ackHold src code .released { s with holds := s.holds.filter fun x => decide (x ≠ code) }
    else ackHold src code .notHeld s
  else ackHold src code .badCode (bump .misreads s)

end Sys2Proof.Machine
end

