-- ==== Sys2Proof/Machine/Keying.lean ====
section
/-! DEFINITION. Keying at the bench (section 10.3): KEYIN frames with result CODE and REJECT, and their
acknowledgements. -/

namespace Sys2Proof.Machine

/-- A KEYIN_ACK to the source of the KEYIN, with the slot as it was carried (R187). -/
def ackKeyin (src : Nat) (slot : BitVec 16) (st : KeyinStatus) (s : State) : State :=
  pushControl { dest := src, msg := .keyinAck slot st } s

/-- The tests of R184 on a keyed code for an entry, from step 3 on, with the ownership an acceptance takes. -/
def keyinTest (code : TagCode) (e : StrayEntry) (s : State) : KeyinStatus × Option Owned :=
  if wellFormedCode code then
    if e.keyed.isSome then (.already, none)
    else
      match sailingLookup s code with
      | none => (.noMatch, none)
      | some g =>
        match cabinLookup s g code with
        | none => (.noMatch, none)
        | some (p, r) =>
          if hasSerial (seenNow s g (p, r)) (serialField code) then (.duplicate, none)
          else (.accepted, some { code := code, sailing := g, deck := r.deck })
  else (.badCode, none)

/-- The effects of a KEYIN's tests (R184, R185): a misread is counted, an acceptance takes the code. -/
def keyinEffect (slot : Nat) (r : KeyinStatus × Option Owned) (s : State) : State :=
  match r with
  | (.badCode, _) => bump .misreads s
  | (.accepted, some o) => keyStray slot o (tallyUpdate .seenSet o.sailing o.code s)
  | _ => s

/-- A KEYIN frame with result CODE (R184). -/
def takeKeyinCode (src : Nat) (slot : BitVec 16) (code : TagCode) (s : State) : State :=
  match strayAt s slot.toNat with
  | none => ackKeyin src slot .noSlot s
  | some e =>
    let r := keyinTest code e s
    ackKeyin src slot r.1 (keyinEffect slot.toNat r s)

/-- A rejected entry's code released (R186). -/
def releaseKeyed (e : StrayEntry) (s : State) : State :=
  match e.keyed with
  | some o => tallyUpdate .seenClear o.sailing o.code s
  | none => s

/-- A KEYIN frame with result REJECT (R184 steps 1 and 2, R186). -/
def takeKeyinReject (src : Nat) (slot : BitVec 16) (s : State) : State :=
  match strayAt s slot.toNat with
  | none => ackKeyin src slot .noSlot s
  | some e => ackKeyin src slot .rejected (removeStray slot.toNat (releaseKeyed e s))

end Sys2Proof.Machine
end

