-- ==== Sys2Proof/Machine/Commit.lean ====
section
/-! DEFINITION. The Manifest Store's requests and engines (sections 5.4 to 5.8): COMMIT with its checksum, checks, walk and
swap, DISCARD, ERASE, the SAILING actions, LOCK, abandonment, and the RESTART sweep. -/

namespace Sys2Proof.Machine

/-- What an owner answers to a request: a status and results, or nothing yet, when the reply is built at a later
event (R193). -/
abbrev Answer := Option (Status × List Byte)

/-- A request refused, or done, with a status and no results. -/
def answered (st : Status) (s : State) : State × Answer := (s, some (st, []))

/-- A sailing index of a request: 0 or 1. -/
def isSailing (i : Nat) : Bool := decide (i < 2)

/-- The other sailing. -/
def otherSailing (i : Nat) : Nat := if i = 0 then 1 else 0

/-! ### The checksum (R87) -/

/-- The class byte of a map entry or an override, NONE as 0xFF. -/
def classByte (c : Option Nat) : Nat := c.getD 255

/-- The byte sum of a record as a cabin load record. -/
def recordSum (r : Cabin) : Nat :=
  r.number / 256 + r.number % 256 + r.deck + r.zone + r.expected + classByte r.override

/-- The sum of R87 over a bank. -/
def bankSum (b : Bank) : Nat :=
  b.code + b.count / 256 + b.count % 256 + ((List.range b.count).map fun p => recordSum (cabinAt b p)).sum +
    ((List.range 160).map fun k => classByte (tableGet none b.map k)).sum

/-- The bank checksum: the two's complement of the sum, modulo 2^32 (R87). -/
def bankChecksum (b : Bank) : BitVec 32 := - BitVec.ofNat 32 (bankSum b)

/-! ### COMMIT (R88, R89) -/

/-- The cabin numbers at positions 0 to count - 1 are strictly increasing. -/
def orderOk (b : Bank) : Bool :=
  (List.range (b.count - 1)).all fun p => decide ((cabinAt b p).number < (cabinAt b (p + 1)).number)

/-- A class entry, 0 to 61 or NONE. -/
def classOk (c : Option Nat) : Bool := match c with | some k => decide (k ≤ 61) | none => true

/-- The fields of the records within the count, the map entries and the count are in range. -/
def fieldsOk (b : Bank) : Bool :=
  ((List.range b.count).all fun p =>
    let r := cabinAt b p
    decide (1 ≤ r.deck) && decide (r.deck ≤ 20) && decide (1 ≤ r.zone) && decide (r.zone ≤ 8) && classOk r.override) &&
  ((List.range 160).all fun k => classOk (tableGet none b.map k)) && decide (b.count ≤ 4096)

/-- The staging code is usable beside the other sailing. -/
def codeFree (g o : Sailing) : Bool :=
  decide (1 ≤ g.staging.code) && decide (g.staging.code ≤ 254) &&
  (decide (o.state = .empty) || decide (o.code ≠ some g.staging.code)) &&
  (o.walk.isNone || decide (o.staging.code ≠ g.staging.code))

/-- The checks of R88 in order: the status of the first that fails. -/
def commitCheck (i : Nat) (checksum : BitVec 32) (s : State) : Option Status :=
  let g := sailingAt s i
  if g.walk.isSome ∨ s.mgmt.restart.isSome then some .busy
  else if bankChecksum g.staging ≠ checksum then some .checksum
  else if orderOk g.staging = false then some .order
  else if fieldsOk g.staging = false then some .range
  else if codeFree g (sailingAt s (otherSailing i)) = false then some .conflict
  else none

/-- The walk as a COMMIT starts it (R89). -/
def newWalk (g : Sailing) (slot : Nat) : Walk :=
  { cursor := none, carrying := decide (g.active.code = g.staging.code), next := 0, fresh := [], slot := slot }

/-- A COMMIT request (R88, R89): refused at once, or the walk started with the reply left for the swap. -/
def reqCommit (slot i : Nat) (checksum : BitVec 32) (s : State) : State × Answer :=
  if isSailing i then
    match commitCheck i checksum s with
    | some st => answered st s
    | none => (setSailing i { sailingAt s i with walk := some (newWalk (sailingAt s i) slot) } s, none)
  else answered .range s

/-- A step of the walk on a sailing (R89): the tally carried over, or the record made fresh; the cursor set. -/
def stepSailing (w : Walk) (g : Sailing) : Sailing :=
  let r := cabinAt g.staging w.next
  match (if w.carrying then bankFind g.active r.number else none) with
  | some (_, a) =>
    { g with
      staging := putCabin w.next
        { r with seen := a.seen, loaded := a.loaded, done := a.done && decide (r.expected ≠ 0) } g.staging,
      walk := some { w with cursor := some r.number, next := w.next + 1 } }
  | none =>
    { g with
      staging := putCabin w.next { r with seen := 0, loaded := 0, done := false } g.staging,
      walk := some { w with cursor := some r.number, next := w.next + 1, fresh := w.fresh ++ [w.next] } }

/-- The next record step of a sailing's walk, when one is left (R89). -/
def walkStep (i : Nat) (s : State) : State :=
  match (sailingAt s i).walk with
  | some w => if w.next < (sailingAt s i).staging.count then setSailing i (stepSailing w (sailingAt s i)) s else s
  | none => s

/-! ### The swap (R92, R93) -/

/-- A tag code has an owner with a sailing's index: a live bag record or a KEYED stray entry (R83, R92). -/
def hasOwner (s : State) (i : Nat) (code : TagCode) : Bool :=
  let owns := fun (o : Option Owned) =>
    match o with
    | some o => decide (o.code = code) && decide (o.sailing = i)
    | none => false
  (liveBags s).any (fun (_, b) => owns b.owned) || s.strays.entries.any fun e => owns e.keyed

/-- The serials of a cabin whose tag code has an owner (R92, step 1). -/
def ownedSerials (s : State) (i code number : Nat) : SerialSet :=
  (List.range' 1 15).foldl (fun a n => if hasOwner s i (makeCode code number n) then a ||| serialBit n else a) 0

/-- The fresh records' seen sets settled (R92, step 1). -/
def settleFresh (s : State) (i : Nat) (fresh : List Nat) (b : Bank) : Bank :=
  fresh.foldl
    (fun b p =>
      let r := cabinAt b p
      putCabin p { r with seen := ownedSerials s i b.code r.number } b) b

/-- Steps 1 to 4 of the swap on a sailing (R92). -/
def swapSailing (s : State) (i : Nat) (w : Walk) (g : Sailing) : Sailing :=
  let b := settleFresh s i w.fresh g.staging
  { g with
    state := if g.state = .empty then .opened else g.state,
    code := some b.code,
    walk := none,
    active := b,
    staging := { g.active with count := 0 } }

/-- The records a swap re-resolves, in index order (R93). -/
def toReresolve (s : State) (i : Nat) : List (Nat × Owned) :=
  (liveBags s).filterMap fun (k, b) =>
    match b.owned with
    | some o => if o.sailing = i ∧ b.state = .routed ∧ isSort b.target = true then some (k, o) else none
    | none => none

/-- One record re-resolved against the ACTIVE bank, and offered (R93). -/
def reresolve (s : State) (x : Nat × Owned) : State := giveTarget x.1 (ownedTarget s x.2) s

/-- The swap of a sailing, once its walk has no record step left (R92). -/
def walkSwap (i : Nat) (s : State) : State :=
  match (sailingAt s i).walk with
  | some w =>
    if (sailingAt s i).staging.count ≤ w.next then
      let s1 := setSailing i (swapSailing s i w (sailingAt s i)) s
      buildReply w.slot .ok [] (withRounds (fun s => (toReresolve s i).foldl reresolve s) s1)
    else s
  | none => s

/-! ### DISCARD, ERASE, SAILING and LOCK (R95 to R99) -/

/-- A DISCARD request (R95). -/
def reqDiscard (i : Nat) (s : State) : State × Answer :=
  if isSailing i then
    if (sailingAt s i).walk.isSome then answered .busy s
    else answered .ok (setSailing i { sailingAt s i with staging := emptyBank } s)
  else answered .range s

/-- A live bag record or a KEYED stray entry belongs to a sailing (R96). -/
def sailingOwned (s : State) (i : Nat) : Bool :=
  (liveBags s).any (fun (_, b) => decide (b.owned.map (·.sailing) = some i)) ||
    s.strays.entries.any fun e => decide (e.keyed.map (·.sailing) = some i)

/-- An ERASE request (R96). -/
def reqErase (i : Nat) (s : State) : State × Answer :=
  if isSailing i then
    if (sailingAt s i).walk.isSome then answered .busy s
    else if (sailingAt s i).state = .opened then answered .state s
    else if sailingOwned s i then answered .state s
    else answered .ok (setSailing i emptySailing s)
  else answered .range s

/-- The records a closure re-targets: they own a code of the sailing with a deck newly closed, have a SORT target,
and are ROUTED or ARMED; in index order (R98). -/
def toClose (s : State) (i : Nat) (decks : DeckSet) : List Nat :=
  (liveBags s).filterMap fun (k, b) =>
    match b.owned with
    | some o =>
      if o.sailing = i ∧ hasDeck decks o.deck = true ∧ isSort b.target = true ∧ (b.state = .routed ∨ b.state = .armed) then
        some k
      else none
    | none => none

/-- The closure of newly closed decks of a sailing (R98). -/
def closeBags (i : Nat) (decks : DeckSet) (s : State) : State :=
  withRounds (fun s => (toClose s i decks).foldl (fun s k => giveTarget k (.stray .closed) s) s) s

/-- The checks that open every SAILING request (R97): the index, the deck of a deck action, and the EMPTY state. -/
def sailingCheck (i : Nat) (deck : Option Nat) (s : State) : Option Status :=
  if isSailing i = false then some .range
  else
    match deck with
    | some d =>
      if d < 1 ∨ 20 < d then some .range
      else if (sailingAt s i).state = .empty then some .state
      else none
    | none => if (sailingAt s i).state = .empty then some .state else none

/-- A SAILING request with action CLOSE_DECK (R97). -/
def reqCloseDeck (i deck : Nat) (s : State) : State × Answer :=
  match sailingCheck i (some deck) s with
  | some st => answered st s
  | none =>
    let g := sailingAt s i
    if g.state = .opened then
      if hasDeck g.closedDecks deck then answered .ok s
      else
        answered .ok (closeBags i (deckBit deck)
          (setSailing i { g with closedDecks := g.closedDecks ||| deckBit deck } s))
    else answered .state s

/-- A SAILING request with action REOPEN_DECK (R97). -/
def reqReopenDeck (i deck : Nat) (s : State) : State × Answer :=
  match sailingCheck i (some deck) s with
  | some st => answered st s
  | none =>
    let g := sailingAt s i
    if g.state = .opened then
      answered .ok (setSailing i { g with closedDecks := g.closedDecks &&& ~~~ deckBit deck } s)
    else answered .state s

/-- A SAILING request with action CLOSE_SAILING (R97). -/
def reqCloseSailing (i : Nat) (s : State) : State × Answer :=
  match sailingCheck i none s with
  | some st => answered st s
  | none =>
    let g := sailingAt s i
    if g.state = .opened then
      answered .ok (closeBags i (allDecks &&& ~~~ g.closedDecks)
        (setSailing i { g with state := .closed, closedDecks := allDecks } s))
    else answered .state s

/-- A SAILING request with action OPEN_SAILING (R97). -/
def reqOpenSailing (i : Nat) (s : State) : State × Answer :=
  match sailingCheck i none s with
  | some st => answered st s
  | none =>
    let g := sailingAt s i
    if g.state = .closed then answered .ok (setSailing i { g with state := .opened, closedDecks := 0 } s)
    else answered .state s

/-- A SAILING request by its action code (R97). -/
def reqSailing (i action deck : Nat) (s : State) : State × Answer :=
  if action = 0 then reqCloseDeck i deck s
  else if action = 1 then reqReopenDeck i deck s
  else if action = 2 then reqCloseSailing i s
  else if action = 3 then reqOpenSailing i s
  else answered .range s

/-- A LOCK request (R99). -/
def reqLock (i : Nat) (s : State) : State × Answer :=
  if isSailing i then answered .ok (setSailing i { sailingAt s i with locked := true } s) else answered .range s

/-! ### RESTART at the Manifest Store (R94, R102) -/

/-- A walk in flight abandoned (R94). -/
def abandonWalk (i : Nat) (s : State) : State :=
  match (sailingAt s i).walk with
  | some w => buildReply w.slot .abandoned [] (setSailing i { sailingAt s i with walk := none } s)
  | none => s

/-- The sailing and position of the next sweep step at or after a place (R102). -/
def sweepFrom (s : State) (g p : Nat) : Option (Nat × Nat) :=
  if g = 0 ∧ p < s.sailing0.active.count then some (0, p)
  else
    let q := if g = 0 then 0 else p
    if q < s.sailing1.active.count then some (1, q) else none

/-- One sweep step: the record's seen set made equal to its loaded set (R102). -/
def sweepStep (s : State) : State :=
  match s.mgmt.restart with
  | some { slot := k, sweep := some (g, p) } =>
    let r := cabinAt (sailingAt s g).active p
    let s1 := setSailing g { sailingAt s g with active := putCabin p { r with seen := r.loaded } (sailingAt s g).active } s
    { s1 with mgmt := { s1.mgmt with restart := some { slot := k, sweep := sweepFrom s g (p + 1) } } }
  | _ => s

/-- The completion of a RESTART whose sweep is done (R200). -/
def completeRestart (s : State) : State :=
  match s.mgmt.restart with
  | some { slot := k, sweep := none } => buildReply k .ok [] { s with mgmt := { s.mgmt with restart := none } }
  | _ => s

end Sys2Proof.Machine
end

