-- ==== Sys2Proof/Machine/Queries.lean ====
section
/-! DEFINITION. The seven QUERY requests (section 11.3) and the snapshot's values (section 11.4). Each query answers from
the state as it stands, and changes nothing. -/

namespace Sys2Proof.Machine

/-- A run of zero bytes. -/
def zeroBytes (n : Nat) : List Byte := List.replicate n 0

/-- A query answered OK with its results. -/
def results (bs : List Byte) : Status × List Byte := (.ok, bs)

/-- A query refused, with no results. -/
def refusal (st : Status) : Status × List Byte := (st, [])

/-! ### CABIN (R100) -/

/-- The class byte of a bank's map for a record's deck and zone: absent for a record that has neither. -/
def mapByte (b : Bank) (r : Cabin) : Byte :=
  if r.deck = 0 ∨ r.zone = 0 then 0xFF else optByte (mapClass b r.deck r.zone)

/-- The 15 result bytes of a cabin record. -/
def cabinBytes (present : Bool) (pos : Nat) (b : Bank) (r : Cabin) : List Byte :=
  [flagByte present] ++ be16 pos ++ be16 r.number ++
    [byteOf r.deck, byteOf r.zone, byteOf r.expected, optByte r.override, mapByte b r] ++
    be16 r.seen.toNat ++ be16 r.loaded.toNat ++ [flagByte r.done]

/-- QUERY CABIN: sailing, bank (0 ACTIVE, 1 STAGING), cabin number or position. -/
def queryCabin (i bank sel : Nat) (s : State) : Status × List Byte :=
  if isSailing i = false ∨ 1 < bank ∨ (bank = 1 ∧ 4095 < sel) then refusal .range
  else
    let g := sailingAt s i
    if g.locked then (.locked, zeroBytes 15)
    else if bank = 0 then
      match bankFind g.active sel with
      | some (p, r) => results (cabinBytes true p g.active r)
      | none => results (zeroBytes 15)
    else results (cabinBytes (decide (sel < g.staging.count)) sel g.staging (cabinAt g.staging sel))

/-! ### BAG (R77) -/

/-- The code of a bag state (section 11.3). -/
def bagStateCode : BagState → Nat
  | .inducting => 1
  | .unread => 2
  | .routed => 3
  | .armed => 4
  | .diverting => 5

/-- The expected eye byte: the number, with 0x80 added for NEXT_LAP; 0 for none. -/
def expEyeByte : Option ExpEye → Byte
  | some { eye := k, lap := .this } => byteOf k
  | some { eye := k, lap := .next } => byteOf (k + 128)
  | none => 0

/-- The four slots of the last-scan codes. -/
def codeSlots (cs : List TagCode) : List Byte :=
  (List.range 4).flatMap fun k => optCodeBytes cs[k]?

/-- The deadline is a count. -/
def deadlineIsCount : Option Divert → Bool
  | some { chute := _, fire := _, window := _, deadline := .count _ } => true
  | _ => false

/-- The two bytes of a confirm deadline. -/
def deadlineBytes : Deadline → List Byte
  | .position p => be16 p
  | .count n => be16 n.toNat

/-- The assigned chute, F, W and the deadline. -/
def divertBytes : Option Divert → List Byte
  | some d => byteOf d.chute :: be16 d.fire ++ be16 d.window ++ deadlineBytes d.deadline
  | none => 0xFF :: List.replicate 6 0xFF

/-- The 42 result bytes of a live record. Bits 7 to 3 of the flags byte are a free value (log 41). -/
def bagBytes (b : Bag) : List Byte :=
  [byteOf (bagStateCode b.state), optByte b.station] ++ optBe16 b.edge ++ optBe16 b.len ++
    [byteOf b.recirc, expEyeByte b.expEye, byteOf b.misses,
      byteOf (b.uncertain.toNat + 2 * b.oversize.toNat + 4 * (deadlineIsCount b.divert).toNat +
        8 * Config.bagFlagSpareBits.toNat),
      byteOf b.lastScan.length] ++
    codeSlots b.lastScan ++ optCodeBytes (b.owned.map (·.code)) ++
    [optByte (b.owned.map (·.sailing)), optByte (b.owned.map (·.deck))] ++ targetBytes b.target ++ divertBytes b.divert

/-- The 42 result bytes of a free record: every field but the state absent: DEDUCED (log 21). -/
def freeBagBytes : List Byte :=
  [0, 0xFF] ++ optBe16 none ++ optBe16 none ++ [0xFF, 0, 0xFF, 0xFF, 0xFF] ++ codeSlots [] ++ optCodeBytes none ++
    [0xFF, 0xFF] ++ targetBytes none ++ divertBytes none

/-- QUERY BAG. -/
def queryBag (i : Nat) (s : State) : Status × List Byte :=
  if 511 < i then refusal .range
  else
    match bagAt s i with
    | some b => results (bagBytes b)
    | none => results freeBagBytes

/-! ### CHUTE and CAGE (R144, R145) -/

/-- The code of a chute's role (section 7.1). -/
def chuteRoleCode : ChuteRole → Nat
  | .disabled => 0
  | .sort => 1
  | .stray => 2
  | .overflow => 3

/-- The code of a chute's mode (section 7.1). -/
def chuteModeCode : ChuteMode → Nat
  | .pinned => 0
  | .pooled => 1

/-- The 17-byte CHUTE record of a loaded chute, with its class as it stands. -/
def chuteRecordBytes (r : Chute) : List Byte :=
  [byteOf (chuteRoleCode r.role), byteOf (chuteModeCode r.mode), optByte r.cls] ++ be16 r.pos ++
    [byteOf r.diverter, optByte r.takeaway, byteOf r.profile] ++ be16 r.leadTime ++ [byteOf r.margin] ++
    be16 r.armDist ++ be16 r.confirmDist ++ [byteOf r.capacity, byteOf r.cageNode]

/-- The cage id as it shows: absent while the cage is. -/
def cageIdOf (g : Cage) : Option Nat := if g.state = .absent then none else some g.id

/-- The cage fields of QUERY CHUTE: absent for a chute that keeps no cage record. -/
def chuteCageBytes (r : Chute) : List Byte :=
  if r.role = .sort then
    [byteOf (cageStateCode r.cage.state)] ++ optBe16 (cageIdOf r.cage) ++
      [byteOf r.cage.loaded.length, byteOf r.cage.unknown, flagByte r.cage.sensor, byteOf (causeCode r.cage.cause)]
  else List.replicate 7 0xFF

/-- QUERY CHUTE. -/
def queryChute (c : Nat) (s : State) : Status × List Byte :=
  if 31 < c then refusal .range
  else
    match chuteAt s c with
    | some r =>
      results ([1] ++ chuteRecordBytes r ++ [byteOf (committed s c), flagByte (available s c)] ++ chuteCageBytes r)
    | none => results (zeroBytes 27)

/-- A page of a list of codes from a start position: how many, and the codes. -/
def codePage (most start : Nat) (cs : List TagCode) : List Byte :=
  let page := (cs.drop start).take most
  byteOf page.length :: page.flatMap codeBytes

/-- The full byte: bit 7 the full-sensor flag, low bits the full cause. -/
def fullByte (sensor : Bool) (w : FullCause) : Byte := byteOf (128 * sensor.toNat + causeCode w)

/-- The results of QUERY CAGE for a chute's own cage. -/
def currentCageBytes (s : State) (c start : Nat) (r : Chute) : List Byte :=
  [flagByte (if r.cage.state = .absent then Config.absentCagePresent else true), byteOf c,
      byteOf (cageStateCode r.cage.state)] ++ optBe16 (cageIdOf r.cage) ++
    [optByte r.cls, byteOf r.cage.loaded.length, byteOf r.cage.unknown, fullByte r.cage.sensor r.cage.cause,
      byteOf (committed s c), byteOf start] ++ codePage 11 start r.cage.loaded

/-- The results of QUERY CAGE for a closed cage. -/
def closedCageBytes (start : Nat) (h : ClosedCage) : List Byte :=
  [1, byteOf h.chute, 3] ++ be16 h.id ++
    [optByte h.cls, byteOf h.loaded.length, byteOf h.unknown, fullByte Config.closedCageSensorBit h.cause, 0xFF,
      byteOf start] ++ codePage 11 start h.loaded

/-- QUERY CAGE: source (0 CURRENT, 1 HISTORY), chute or entry number, start position. -/
def queryCage (source number start : Nat) (s : State) : Status × List Byte :=
  if 1 < source ∨ 63 < start ∨ (source = 0 ∧ 31 < number) ∨ (source = 1 ∧ 7 < number) then refusal .range
  else if source = 0 then
    match chuteAt s number with
    | some r => if r.role = .sort then results (currentCageBytes s number start r) else refusal .state
    | none => refusal .state
  else
    match s.closedCages[number]? with
    | some h => results (closedCageBytes start h)
    | none => results (zeroBytes 12)

/-! ### STRAY, HOLD and SAILING (R191, R120, R101) -/

/-- The state byte of a stray entry: reason, held, sailing index, KEYED. Bits 6 and 5 of a WAITING entry are a free value
(log 34), and so is bit 4 of every entry (log 41). -/
def strayStateByte (s : State) (e : StrayEntry) : Byte :=
  byteOf (reasonCode e.reason + 16 * Config.strayStateSpareBit.toNat +
    match e.keyed with
    | some o => 128 + 64 * o.sailing + 32 * (decide (o.code ∈ s.holds)).toNat
    | none => 32 * Config.waitingStrayBits.toNat)

/-- The word of a stray entry: the last-scan count in the top three bits, Lb in the low eleven. Bits 12 and 11 are a free
value (log 41). -/
def strayWord (e : StrayEntry) : Nat := 8192 * e.codes.length + 2048 * Config.strayWordSpareBits.toNat + e.len

/-- The bytes of a stray entry. -/
def strayBytes (s : State) (e : StrayEntry) : List Byte :=
  be16 e.slot ++ [strayStateByte s e] ++ be16 (strayWord e) ++ optCodeBytes (e.keyed.map (·.code)) ++
    [optByte (if e.keyed.isSome then some (s.strays.keyedOrder.idxOf e.slot) else none)] ++ e.codes.flatMap codeBytes

/-- QUERY STRAY. -/
def queryStray (start : Nat) (s : State) : Status × List Byte :=
  if 63 < start then refusal .range
  else
    let page := (s.strays.entries.drop start).take 2
    results ([byteOf s.strays.entries.length, byteOf start, byteOf page.length] ++ page.flatMap (strayBytes s))

/-- QUERY HOLD. -/
def queryHold (start : Nat) (s : State) : Status × List Byte :=
  if 31 < start then refusal .range
  else results ([byteOf s.holds.length, byteOf start] ++ codePage 12 start s.holds)

/-- A three-byte field, most significant byte first. -/
def be24 (n : Nat) : List Byte := [byteOf (n / 65536), byteOf (n / 256), byteOf n]

/-- The number of ACTIVE records with cabin-done set. -/
def cabinsDone (b : Bank) : Nat := b.recs.countP fun (p, r) => decide (p < b.count) && r.done

/-- The cursor of a walk, 0 for none. -/
def cursorOf (w : Option Walk) : Nat := (w.bind (·.cursor)).getD 0

/-- The carrying mark of a walk, clear for none. -/
def carryingOf (w : Option Walk) : Bool := match w with | some w => w.carrying | none => false

/-- QUERY SAILING. Bits 20 to 23 of the closed-deck set stand for no deck and are 0: DEDUCED (log 41). -/
def querySailing (i : Nat) (s : State) : Status × List Byte :=
  if isSailing i = false then refusal .range
  else
    let g := sailingAt s i
    results ([byteOf (sailingStateCode g.state), byteOf (g.code.getD 0)] ++ be24 g.closedDecks.toNat ++
      [flagByte g.locked, flagByte g.walk.isSome, flagByte (carryingOf g.walk)] ++ be16 (cursorOf g.walk) ++
      be16 g.active.count ++ [byteOf g.staging.code] ++ be16 g.staging.count ++ be16 (cabinsDone g.active))

/-! ### The snapshot (R197) -/

/-- The 53 bytes of the snapshot as the state stands. -/
def snapshotBytes (s : State) : List Byte :=
  be16 s.tracker.pos ++ be16 s.tracker.speed ++
    [byteOf (trackStateCode s.tracker.state), byteOf (speedCode s.gate.speed)] ++
    be16 (stateCount s .inducting) ++ be16 (stateCount s .unread) ++ be16 (stateCount s .routed) ++
    be16 (stateCount s .armed) ++ be16 (stateCount s .diverting) ++
    [byteOf s.strays.entries.length, byteOf s.holds.length, byteOf (sailingStateCode s.sailing0.state),
      byteOf (sailingStateCode s.sailing1.state), statusSummary s] ++
    counterBytes s.mgmt.counters

end Sys2Proof.Machine
end

