-- ==== Sys2Proof/Machine/Load.lean ====
section
/-! DEFINITION. LOAD (R18, R84): the layout of a request, the checks of its sections and of the request as a whole, and the
writing of the eight tables (R10, R21, R22, R85, R86, R123, R124, R166, R167). -/

namespace Sys2Proof.Machine

/-! ### The layout (R18) -/

/-- The tables a LOAD section names. -/
inductive LoadTable where
  | cabin
  | map
  | sailcode
  | loop
  | nodes
  | chute
  | profile
  | playermap
  deriving DecidableEq, Repr

/-- The table code of a section header. -/
def loadTableOf (n : Nat) : Option LoadTable :=
  if n = 1 then some .cabin
  else if n = 2 then some .map
  else if n = 3 then some .sailcode
  else if n = 4 then some .loop
  else if n = 5 then some .nodes
  else if n = 6 then some .chute
  else if n = 7 then some .profile
  else if n = 8 then some .playermap
  else none

/-- The record size of a table. -/
def recordSize : LoadTable → Nat
  | .cabin => 6
  | .map => 1
  | .sailcode => 3
  | .loop => 42
  | .nodes => 6
  | .chute => 17
  | .profile => 49
  | .playermap => 2

/-- The tables whose sections use the sailing byte. -/
def usesSailing : LoadTable → Bool
  | .cabin => true
  | .map => true
  | .sailcode => true
  | _ => false

/-- A section: its table, sailing byte, first index, and records. Its count is the number of records. -/
structure LoadPart where
  table : LoadTable
  sailing : Nat
  first : Nat
  records : List (List Byte)
  deriving DecidableEq, Repr

/-- A section header: table, sailing byte, first index, count. -/
structure LoadHeader where
  table : LoadTable
  sailing : Nat
  first : Nat
  count : Nat
  deriving DecidableEq, Repr

/-- The section headers of a request, and the bytes that follow them (R18). -/
def loadHeaders : Nat → List Byte → Option (List LoadHeader × List Byte)
  | 0, bs => some ([], bs)
  | n + 1, t :: g :: fh :: fl :: ch :: cl :: rest =>
    match loadTableOf t.toNat with
    | some k =>
      if usesSailing k = true ∧ 1 < g.toNat then none
      else
        (loadHeaders n rest).map fun (hs, bs) =>
          ({ table := k, sailing := g.toNat, first := nat16 fh fl, count := nat16 ch cl } :: hs, bs)
    | none => none
  | _ + 1, _ => none

/-- A number of records of one size, cut from the front of the bytes. -/
def cutRecords (size : Nat) : Nat → List Byte → Option (List (List Byte) × List Byte)
  | 0, bs => some ([], bs)
  | n + 1, bs =>
    if bs.length < size then none
    else (cutRecords size n (bs.drop size)).map fun (rs, rest) => (bs.take size :: rs, rest)

/-- The sections with their records; the bytes must be used up exactly (R18). -/
def loadParts : List LoadHeader → List Byte → Option (List LoadPart)
  | [], bs => if bs = [] then some [] else none
  | h :: hs, bs =>
    match cutRecords (recordSize h.table) h.count bs with
    | some (rs, rest) =>
      (loadParts hs rest).map fun ps => { table := h.table, sailing := h.sailing, first := h.first, records := rs } :: ps
    | none => none

/-- The format checks of R18: the sections of a LOAD's arguments, none when one fails. Arguments that end before the
section count or within the headers fail them: DEDUCED (log 44). -/
def parseLoad (args : List Byte) : Option (List LoadPart) :=
  match args with
  | n :: rest =>
    if 1 ≤ n.toNat ∧ n.toNat ≤ 4 then (loadHeaders n.toNat rest).bind fun (hs, bs) => loadParts hs bs else none
  | [] => none

/-! ### Fields of records -/

/-- The byte at a place of a record. -/
def u8 (r : List Byte) (k : Nat) : Nat := (r[k]?.getD 0).toNat

/-- The two-byte field at a place of a record. -/
def u16 (r : List Byte) (k : Nat) : Nat := u8 r k * 256 + u8 r (k + 1)

/-- A one-byte field, 0xFF for none. -/
def opt8 (r : List Byte) (k : Nat) : Option Nat := if u8 r k = 255 then none else some (u8 r k)

/-- A two-byte position, 0xFFFF for absent. -/
def opt16 (r : List Byte) (k : Nat) : Option Nat := if u16 r k = 65535 then none else some (u16 r k)

/-- A number lies within a range. -/
def within (lo n hi : Nat) : Bool := decide (lo ≤ n) && decide (n ≤ hi)

/-- Checks in order: the status of the first that fails. -/
def firstFail : List (Bool × Status) → Option Status
  | [] => none
  | (ok, st) :: r => if ok then firstFail r else some st

/-- The sections of one table that hold records. -/
def partsOf (t : LoadTable) (ps : List LoadPart) : List LoadPart :=
  ps.filter fun p => decide (p.table = t) && !p.records.isEmpty

/-- The records of a section with the entries they are written to. -/
def LoadPart.entries (p : LoadPart) : List (Nat × List Byte) :=
  p.records.zipIdx.map fun (r, k) => (p.first + k, r)

/-! ### CABIN, MAP and SAILCODE (R85, R86) -/

/-- A cabin load record is in range (R85). -/
def cabinRecordOk (r : List Byte) : Bool :=
  within 1 (u16 r 0) 65534 && within 1 (u8 r 2) 20 && within 1 (u8 r 3) 8 && classOk (opt8 r 5)

/-- The cabin record a load record writes, its tally zeroed (R85). -/
def cabinOf (r : List Byte) : Cabin :=
  { number := u16 r 0, deck := u8 r 2, zone := u8 r 3, expected := u8 r 4 % 16, override := opt8 r 5,
    seen := 0, loaded := 0, done := false }

/-- The checks of a CABIN, MAP or SAILCODE section, in order. -/
def checkManifest (p : LoadPart) (s : State) : Option Status :=
  let free := (sailingAt s p.sailing).walk.isNone
  match p.table with
  | .cabin =>
    firstFail [(decide (p.first + p.records.length ≤ 4096), .range), (p.records.all cabinRecordOk, .range), (free, .busy)]
  | .map =>
    firstFail [(decide (p.first + p.records.length ≤ 160), .range), (p.records.all fun r => classOk (opt8 r 0), .range),
      (free, .busy)]
  | .sailcode =>
    firstFail [(decide (p.first = 0) && decide (p.records.length ≤ 1), .range),
      (p.records.all fun r => within 1 (u8 r 0) 254 && decide (u16 r 1 ≤ 4096), .range), (free, .busy)]
  | _ => none

/-- One record of a CABIN, MAP or SAILCODE section written to a STAGING bank. -/
def writeBank (t : LoadTable) (b : Bank) (e : Nat × List Byte) : Bank :=
  match t with
  | .cabin => putCabin e.1 (cabinOf e.2) b
  | .map => { b with map := tablePut none b.map e.1 (opt8 e.2 0) }
  | .sailcode => { b with code := u8 e.2 0, count := u16 e.2 1 }
  | _ => b

/-- A CABIN, MAP or SAILCODE section written. -/
def writeManifest (p : LoadPart) (s : State) : State :=
  let g := sailingAt s p.sailing
  setSailing p.sailing { g with staging := p.entries.foldl (writeBank p.table) g.staging } s

/-! ### LOOP (R20, R21, R22) -/

/-- The loop configuration of a LOOP record (section 2.1). -/
def loopOf (r : List Byte) : LoopCfg :=
  { len := u16 r 0, entryPos := u16 r 2, eyes := (List.range 7).map fun k => opt16 r (4 + 2 * k),
    reader0 := opt16 r 18, reader1 := opt16 r 20, eyeTol := u8 r 22, wideTol := u16 r 23, recircLimit := u8 r 25,
    loopLimit := u16 r 26, gapBefore := u16 r 28, gapAfter := u16 r 30, maxBag := u16 r 32, inductTimeout := u16 r 34,
    runIdle := u16 r 36, slowIdle := u16 r 38, vRun := u16 r 40 }

/-- A position of a loop eye or a reader lies within E0 + 1 to L - 1, or is absent. -/
def positionOk (c : LoopCfg) : Option Nat → Bool
  | some q => within (c.entryPos + 1) q (c.len - 1)
  | none => true

/-- A list of numbers is strictly increasing. -/
def increasing : List Nat → Bool
  | a :: b :: r => decide (a < b) && increasing (b :: r)
  | _ => true

/-- Every field of a loop configuration lies within its range (R20, R21). -/
def loopOk (c : LoopCfg) : Bool :=
  within 8192 c.len 65535 && within 0 c.entryPos 1023 && c.eyes.all (positionOk c) && positionOk c c.reader0 &&
  positionOk c c.reader1 && within 0 c.eyeTol 255 && within c.eyeTol c.wideTol 2047 && within 0 c.recircLimit 15 &&
  within 1 c.loopLimit 480 && within 0 c.gapBefore 4095 && within 0 c.gapAfter 4095 && within 256 c.maxBag 2047 &&
  within 1 c.inductTimeout 8191 && within 1 c.runIdle 600 && within 1 c.slowIdle 3600 && within 1 c.vRun 16368 &&
  increasing (c.eyes.filterMap id) && decide (c.gapBefore + c.maxBag + c.gapAfter < c.len)

/-- No bag record is live and no stray entry is KEYED (R21). -/
def loopFree (s : State) : Bool := (liveBags s).isEmpty && s.strays.entries.all fun e => e.keyed.isNone

/-- The checks of a LOOP section within the section, in order (R21). -/
def checkLoop (p : LoadPart) (s : State) : Option Status :=
  firstFail [(decide (p.first = 0) && decide (p.records.length ≤ 1), .range),
    (p.records.all fun r => loopOk (loopOf r), .range), (loopFree s, .state)]

/-- The tracker after a LOOP record is written (R22): P and the history's positions are taken modulo the new length
on a reload. -/
def reloadTracker (c : LoopCfg) (t : Tracker) : Tracker :=
  match t.cfg with
  | none => { t with cfg := some c }
  | some _ =>
    { t with cfg := some c, pos := t.pos % c.len,
             history := t.history.map fun e => { e with pos := e.pos % c.len } }

/-- The idle timers after a LOOP record is written (R53): a running timer restarts with the new time, and the timer
that the speed state and the idle condition call for is started. -/
def reloadTimers (c : LoopCfg) (s : State) : State :=
  if loopIdle s then
    match s.gate.speed with
    | .run => withGate (fun g => { g with runTimer := some c.runIdle }) s
    | .slow => withGate (fun g => { g with slowTimer := some c.slowIdle }) s
    | .standby => s
  else s

/-- A LOOP record written (R22). -/
def writeLoop (c : LoopCfg) (s : State) : State := reloadTimers c (withTracker (reloadTracker c) s)

/-! ### NODES (R10) -/

/-- The eye of an identity byte: none where the byte is undefined. -/
def eyeIdOf (n : Nat) : Option (Option EyeId) :=
  if n = 255 then some none
  else if n = 0 then some (some .entry)
  else if n ≤ 7 then some (some (.loop n))
  else if 32 ≤ n ∧ n < 64 then some (some (.chute (n - 32)))
  else none

/-- The station of an identity byte: none where the byte is undefined. -/
def stationIdOf (n : Nat) : Option (Option StationId) :=
  if n = 255 then some none
  else if n ≤ 3 then some (some { number := n, type := .normal })
  else if 128 ≤ n ∧ n ≤ 131 then some (some { number := n - 128, type := .encode })
  else none

/-- The slots a role does not use hold 0xFF (R10); role NONE uses none: DEDUCED (log 18). -/
def unused (slots : List Nat) : Bool := slots.all fun n => decide (n = 255)

/-- Every identity byte read, none where one is undefined. -/
def readSlots {α : Type} (f : Nat → Option α) : List Nat → Option (List α)
  | [] => some []
  | n :: r =>
    match f n, readSlots f r with
    | some a, some as => some (a :: as)
    | _, _ => none

/-- The role and identities of a node record: none where the record fails R10's checks, some none for role NONE. -/
def nodeRoleOf (code : Nat) (slots : List Nat) : Option (Option NodeRole) :=
  if code = 0 then (if unused slots then some none else none)
  else if code = 1 then (if unused slots then some (some .encoder) else none)
  else if code = 2 then (readSlots eyeIdOf slots).map fun ids => some (.eye ids)
  else if code = 3 then
    (if u0 slots ≤ 1 ∧ unused slots.tail = true then some (some (.scanner (u0 slots))) else none)
  else if code = 4 then (readSlots stationIdOf slots).map fun ids => some (.station ids)
  else if code = 5 then (if unused slots then some (some .screening) else none)
  else if code = 6 then
    (if u0 slots ≤ 31 ∧ unused slots.tail = true then some (some (.cage (u0 slots))) else none)
  else if code = 7 then (if unused slots then some (some .drive) else none)
  else none
where
  /-- Slot 0. -/
  u0 (slots : List Nat) : Nat := slots.headD 255

/-- The entry of a node record, some none for an empty one, none where it fails R10's checks. -/
def nodeOf (own : Nat) (r : List Byte) : Option (Option NodeEntry) :=
  match nodeRoleOf (u8 r 1) [u8 r 2, u8 r 3, u8 r 4, u8 r 5] with
  | some (some role) =>
    if within 1 (u8 r 0) 126 && decide (u8 r 0 ≠ own) then some (some { addr := u8 r 0, role := role }) else none
  | some none => some none
  | none => none

/-- The checks of a NODES section within the section (R10). -/
def checkNodes (p : LoadPart) (s : State) : Option Status :=
  firstFail [(decide (p.first + p.records.length ≤ 64), .range),
    (p.records.all fun r => (nodeOf s.line.nodeAddr r).isSome, .range)]

/-- A NODES section written to a Node Table. -/
def writeNodes (own : Nat) (p : LoadPart) (t : Table (Option NodeEntry)) : Table (Option NodeEntry) :=
  p.entries.foldl (fun t e => tablePut none t e.1 ((nodeOf own e.2).getD none)) t

/-- The identities an entry maps, each with a number of its own. -/
def nodeIdentities (e : NodeEntry) : List Nat :=
  match e.role with
  | .eye ids => ids.filterMap fun o => o.map fun
    | .entry => 0
    | .loop k => k
    | .chute c => 32 + c
  | .scanner r => [64 + r]
  | .station ids => ids.filterMap fun o => o.map fun d => 68 + d.number
  | .cage c => [72 + c]
  | _ => []

/-- The Node Table meets the last row of R10. -/
def nodesOk (t : Table (Option NodeEntry)) : Bool :=
  let es := t.filterMap Prod.snd
  decide (es.map (·.addr)).Nodup && decide (es.flatMap nodeIdentities).Nodup &&
    decide (es.countP (fun e => decide (e.role = .encoder)) ≤ 1) && decide (es.countP (fun e => decide (e.role = .drive)) ≤ 1)

/-! ### CHUTE (R123, R124) -/

/-- The role code of a CHUTE record. -/
def chuteRoleOf (n : Nat) : Option ChuteRole :=
  if n = 0 then some .disabled
  else if n = 1 then some .sort
  else if n = 2 then some .stray
  else if n = 3 then some .overflow
  else none

/-- The second row of R123: the fields of every record. The mode, class, capacity and cage node bytes count for a SORT
record alone: DEDUCED (log 25). -/
def chuteFieldsOk (r : List Byte) : Bool :=
  (chuteRoleOf (u8 r 0)).isSome && within 4096 (u16 r 3) 64511 && within 0 (u8 r 5) 39 &&
  (decide (u8 r 6 = 255) || (within 0 (u8 r 6) 39 && decide (u8 r 6 ≠ u8 r 5))) && within 0 (u8 r 7) 15 &&
  within 0 (u16 r 8) 1000 && within 0 (u16 r 11) 4095 && within 1 (u16 r 13) 4095 &&
  (decide (u8 r 0 ≠ 1) || (within 0 (u8 r 1) 1 && within 1 (u8 r 15) 64))

/-- The third row of R123: a SORT record's cage node, and its mode with its class. -/
def sortFieldsOk (r : List Byte) : Bool :=
  decide (u8 r 0 ≠ 1) ||
    (within 1 (u8 r 16) 126 &&
      ((decide (u8 r 1 = 0) && within 0 (u8 r 2) 61) || (decide (u8 r 1 = 1) && decide (u8 r 2 = 255))))

/-- The loop length of the LOOP section a request carries. -/
def requestLen (ps : List LoadPart) : Option Nat :=
  (partsOf .loop ps).findSome? fun p => p.records.head?.map fun r => u16 r 0

/-- The loop length a CHUTE section is checked against (R123, fourth row). -/
def checkLen (ps : List LoadPart) (s : State) : Option Nat :=
  match requestLen ps with
  | some l => some l
  | none => s.tracker.cfg.map (·.len)

/-- A position lies within 4096 to L - 1024. -/
def chutePosOk (l pos : Nat) : Bool := decide (4096 ≤ pos) && decide (pos + 1024 ≤ l)

/-- A chute may be written: no cage present, and a committed count of 0. -/
def chuteFree (s : State) (c : Nat) : Bool :=
  (match chuteAt s c with | some r => decide (r.cage.state = .absent) | none => true) && decide (committed s c = 0)

/-- The checks of a CHUTE section within the section, in order (R123). -/
def checkChute (ps : List LoadPart) (p : LoadPart) (s : State) : Option Status :=
  firstFail [(decide (p.first + p.records.length ≤ 32), .range), (p.records.all chuteFieldsOk, .range),
    (p.records.all sortFieldsOk, .range),
    ((match checkLen ps s with | some l => p.records.all (fun r => chutePosOk l (u16 r 3)) | none => true), .conflict),
    (p.entries.all fun e => chuteFree s e.1, .state)]

/-- The chute record of a CHUTE record (R124): a chute that is not SORT is POOLED with no class. -/
def chuteOf (r : List Byte) : Chute :=
  let role := (chuteRoleOf (u8 r 0)).getD .disabled
  { role := role,
    mode := if role = .sort ∧ u8 r 1 = 0 then .pinned else .pooled,
    cls := if role = .sort ∧ u8 r 1 = 0 then some (u8 r 2) else none,
    pos := u16 r 3, diverter := u8 r 5, takeaway := opt8 r 6, profile := u8 r 7, leadTime := u16 r 8, margin := u8 r 10,
    armDist := u16 r 11, confirmDist := u16 r 13, capacity := u8 r 15, cageNode := u8 r 16, cage := absentCage }

/-- A CHUTE section written to a chute table. -/
def writeChutes (p : LoadPart) (t : Table (Option Chute)) : Table (Option Chute) :=
  p.entries.foldl (fun t e => tablePut none t e.1 (some (chuteOf e.2))) t

/-- The loaded chutes of a table. -/
def loadedChutes (t : Table (Option Chute)) : List Chute := t.filterMap Prod.snd

/-- The fifth row of R123: no two loaded chutes share a position, and no player is named by two. -/
def chutesOk (t : Table (Option Chute)) : Bool :=
  decide ((loadedChutes t).map (·.pos)).Nodup &&
    decide ((loadedChutes t).flatMap fun r => r.diverter :: r.takeaway.toList).Nodup

/-! ### PROFILE (R166) and PLAYERMAP (R167) -/

/-- The six bytes of segment k of a PROFILE record. -/
def segmentBytes (r : List Byte) (k : Nat) : List Byte := (r.drop (1 + 6 * k)).take 6

/-- A counted segment is in range (R166). -/
def segmentOk (b : List Byte) : Bool :=
  let kind := u8 b 2 / 16
  within 0 (u8 b 1) 200 &&
    ((decide (kind = 0) && decide (u16 b 3 ≤ 5000)) || decide (kind = 1) ||
      (decide (kind = 2) && decide (u8 b 2 % 16 ≤ 7) && within 1 (u16 b 3) 5000))

/-- The segment of its bytes (section 9.1). -/
def segmentOf (b : List Byte) : Segment :=
  { level := u8 b 0, ramp := 10 * u8 b 1,
    hold :=
      if u8 b 2 / 16 = 0 then .time (u16 b 3)
      else if u8 b 2 / 16 = 1 then .window
      else .trigger (u8 b 2 % 16) (u16 b 3),
    outs := b[5]?.getD 0 }

/-- A PROFILE record is in range (R166). -/
def profileOk (r : List Byte) : Bool :=
  decide (u8 r 0 ≤ 8) && (List.range (u8 r 0)).all fun k => segmentOk (segmentBytes r k)

/-- The segments of a PROFILE record: those at and beyond the count are not stored. -/
def profileOf (r : List Byte) : List Segment := (List.range (u8 r 0)).map fun k => segmentOf (segmentBytes r k)

/-- No player plays a profile or holds a pending fire for it (R166). -/
def profileFree (s : State) (n : Nat) : Bool :=
  (List.range 40).all fun p =>
    decide ((playerAt s p).play.map (·.fire.profile) ≠ some n) &&
      decide ((playerAt s p).pending.map (·.profile) ≠ some n)

/-- The checks of a PROFILE section, in order (R166). -/
def checkProfile (p : LoadPart) (s : State) : Option Status :=
  firstFail [(decide (p.first + p.records.length ≤ 16), .range), (p.records.all profileOk, .range),
    (p.entries.all fun e => profileFree s e.1, .state)]

/-- A PROFILE section written. -/
def writeProfile (p : LoadPart) (s : State) : State :=
  { s with players :=
    { s.players with
      profiles := p.entries.foldl (fun t e => tablePut [] t e.1 (profileOf e.2)) s.players.profiles } }

/-- The checks of a PLAYERMAP section, in order (R167). -/
def checkPlayermap (p : LoadPart) (s : State) : Option Status :=
  firstFail [(decide (p.first + p.records.length ≤ 40), .range),
    (p.records.all fun r => decide (u8 r 0 ≤ 126) && decide (u8 r 0 ≠ s.line.nodeAddr), .range),
    (p.entries.all fun e => decide ((playerAt s e.1).mode = .off), .state)]

/-- A PLAYERMAP section written: the map fields alone (R167). -/
def writePlayermap (p : LoadPart) (s : State) : State :=
  p.entries.foldl
    (fun s e =>
      setPlayer e.1
        { playerAt s e.1 with node := if u8 e.2 0 = 0 then none else some (u8 e.2 0), actuator := u8 e.2 1 } s) s

/-! ### The whole request (R84) -/

/-- The checks of one section, in the order its table lists them. A section with no record passes (R84), one of
a commit-busy sailing too, of which R91 says that any CABIN, MAP or SAILCODE section is BUSY: DESIGN CHOICE (log 45). -/
def checkPart (ps : List LoadPart) (p : LoadPart) (s : State) : Option Status :=
  if p.records = [] then none
  else
    match p.table with
    | .cabin => checkManifest p s
    | .map => checkManifest p s
    | .sailcode => checkManifest p s
    | .loop => checkLoop p s
    | .nodes => checkNodes p s
    | .chute => checkChute ps p s
    | .profile => checkProfile p s
    | .playermap => checkPlayermap p s

/-- The chute table as it would stand after every CHUTE section is written. -/
def chutesAfter (ps : List LoadPart) (s : State) : Table (Option Chute) :=
  (partsOf .chute ps).foldl (fun t p => writeChutes p t) s.chutes

/-- The Node Table as it would stand after every NODES section is written. -/
def nodesAfter (ps : List LoadPart) (s : State) : Table (Option NodeEntry) :=
  (partsOf .nodes ps).foldl (fun t p => writeNodes s.line.nodeAddr p t) s.nodes

/-- The checks that look at the request as a whole, in order (R84, step 3). -/
def checkWhole (ps : List LoadPart) (s : State) : Option Status :=
  firstFail [(decide ((partsOf .loop ps).length ≤ 1), .range),
    ((match requestLen ps with
      | some l => (loadedChutes (chutesAfter ps s)).all fun r => chutePosOk l r.pos
      | none => true), .conflict),
    ((partsOf .nodes ps).isEmpty || nodesOk (nodesAfter ps s), .conflict),
    ((partsOf .chute ps).isEmpty || chutesOk (chutesAfter ps s), .conflict)]

/-- The sections checked in header order, and then the request as a whole. -/
def checkLoad (ps : List LoadPart) (s : State) : Option Status :=
  match ps.findSome? fun p => checkPart ps p s with
  | some st => some st
  | none => checkWhole ps s

/-- One section written. -/
def writePart (s : State) (p : LoadPart) : State :=
  match p.table with
  | .cabin => writeManifest p s
  | .map => writeManifest p s
  | .sailcode => writeManifest p s
  | .loop => (match p.records with | r :: _ => writeLoop (loopOf r) s | [] => s)
  | .nodes => { s with nodes := writeNodes s.line.nodeAddr p s.nodes }
  | .chute => { s with chutes := writeChutes p s.chutes }
  | .profile => writeProfile p s
  | .playermap => writePlayermap p s

/-- The chutes that get a round when a request has written a CHUTE record: every chute now available (R124): DEDUCED (log 16). -/
def availableChutes (s : State) : List Nat := (List.range 32).filter (available s)

/-- What follows the writing of a whole request: the rounds of R124, and then the grant attempt that a LOOP section
brings (R44). The manual gives the two no order: DESIGN CHOICE (log 38). -/
def afterLoad (ps : List LoadPart) (s : State) : State :=
  let s1 := if (partsOf .chute ps).isEmpty then s else roundsAt (availableChutes s) s
  if (partsOf .loop ps).isEmpty then s1 else grantAttempt s1

/-- A LOAD request (R84): all its checks, and then all its writing. -/
def reqLoad (args : List Byte) (s : State) : State × Answer :=
  match parseLoad args with
  | none => answered .range s
  | some ps =>
    match checkLoad ps s with
    | some st => answered st s
    | none => answered .ok (afterLoad ps (ps.foldl writePart s))

end Sys2Proof.Machine
end

