-- ==== Sys2Proof/Machine/Requests.lean ====
section
/-! DEFINITION. The requests of the Chute Allocator and the Player Bank (R131, R132, R169), the players' timers (R170, R171,
R173), the sort hold (R194, R195), the snapshot (R197), RESTART (R199), and the taking of a request by the
Management Unit (R5, R14, R193, R196). -/

namespace Sys2Proof.Machine

/-! ### PIN and UNPIN (section 7.5) -/

/-- A PIN to class k is allowed by the third row of R131. -/
def pinAllowed (s : State) (c k : Nat) (r : Chute) : Bool :=
  match r.cls with
  | some k' => decide (k' = k) || (r.cage.loaded.isEmpty && decide (committed s c = 0))
  | none => decide (committed s c = 0)

/-- A PIN request (R131): a change of class gives the chute a round of offers. -/
def reqPin (c k : Nat) (s : State) : State × Answer :=
  if 31 < c ∨ 61 < k then answered .range s
  else
    match chuteAt s c with
    | some r =>
      if r.role = .sort ∧ pinAllowed s c k r = true then
        let s1 := setChute c { r with mode := .pinned, cls := some k } s
        answered .ok (if r.cls = some k then s1 else roundAt s1 c)
      else answered .state s
    | none => answered .state s

/-- A chute unpinned (R132); a POOLED one keeps its class: DEDUCED (log 26). -/
def unpinned (r : Chute) : Chute :=
  if r.mode = .pinned ∧ r.cage.state = .absent then { r with mode := .pooled, cls := none } else { r with mode := .pooled }

/-- An UNPIN request (R132). -/
def reqUnpin (c : Nat) (s : State) : State × Answer :=
  if 31 < c then answered .range s
  else
    match chuteAt s c with
    | some r => if r.role = .sort then answered .ok (setChute c (unpinned r) s) else answered .state s
    | none => answered .state s

/-! ### Players (sections 9.2 and 9.3) -/

/-- The ARMED bags of the player's chute disarmed and offered (R160). -/
def disarmPlayer (p : Nat) (s : State) : State :=
  match chuteOfPlayer s p with
  | some c => disarmAll (armedAt s c) s
  | none => s

/-- A player's mode changed by a request (R168): its chute's bags are disarmed when it leaves AUTO (R160), and its
chute gets a round when it becomes available (R130). -/
def switchMode (p : Nat) (m : PlayerMode) (s : State) : State :=
  withRounds (fun s =>
    let s1 := changeMode p m s
    if (playerAt s p).mode = .auto ∧ m ≠ .auto then disarmPlayer p s1 else s1) s

/-- The checks of a PLAYER request on its player (R169). -/
def playerCheck (p : Nat) (s : State) : Option Status :=
  if 39 < p then some .range else if (playerAt s p).node = none then some .state else none

/-- A PLAYER request naming OFF or AUTO (R169). -/
def reqMode (p : Nat) (m : PlayerMode) (s : State) : State × Answer :=
  match playerCheck p s with
  | some st => answered st s
  | none => answered .ok (if (playerAt s p).mode = m then s else switchMode p m s)

/-- A PLAYER request naming DIRECT (R169). -/
def reqDirect (p level : Nat) (s : State) : State × Answer :=
  match playerCheck p s with
  | some st => answered st s
  | none =>
    let s1 := setPlayer p { playerAt s p with level := level } s
    answered .ok (if (playerAt s p).mode = .direct then pushLevel p level 0 s1 else switchMode p .direct s1)

/-- A PLAYER request by its mode code (R169). -/
def reqPlayer (p mode level : Nat) (s : State) : State × Answer :=
  if mode = 0 then reqMode p .off s
  else if mode = 1 then reqMode p .auto s
  else if mode = 2 then reqDirect p level s
  else answered .range s

/-- The phase of a player's play. -/
def phaseOf (s : State) (p : Nat) : Option Phase := (playerAt s p).play.map (·.phase)

/-- A player's ramp timer expires: the hold begins (R170). -/
def expireRamp (p : Nat) (s : State) : State :=
  match phaseOf s p with
  | some (.ramp _) => runTask (.holdBegin p) s
  | _ => s

/-- A player's TIME hold timer expires: the hold ends (R171). -/
def expireTime (p : Nat) (s : State) : State :=
  match phaseOf s p with
  | some (.time _) => runTask (.holdEnd p) s
  | _ => s

/-- A player's window count has reached its window end: the hold ends (R171). -/
def endWindow (p : Nat) (s : State) : State :=
  match phaseOf s p with
  | some (.window m windowEnd _) => if windowEnd ≤ m then runTask (.holdEnd p) s else s
  | _ => s

/-- A trigger timeout's fault: abort, FAULT, report, disarm (R173). -/
def faultPlayer (p line : Nat) (pl : Play) (s : State) : State :=
  disarmPlayer p
    (pushReport (.playerFault p (chuteOfPlayer s p) pl.fire.profile pl.seg line) (changeMode p .fault s))

/-- A player's trigger timeout expires (R173). -/
def expireTrigger (p : Nat) (s : State) : State :=
  match (playerAt s p).play with
  | some pl =>
    match pl.phase with
    | .trigger line _ => withRounds (faultPlayer p line pl) s
    | _ => s
  | none => s

/-! ### The sort hold and the snapshot -/

/-- The sort hold set or cleared. -/
def setSortHold (b : Bool) (s : State) : State := { s with mgmt := { s.mgmt with sortHold := b } }

/-- A SORT_HOLD request (R194). -/
def reqSortHold (s : State) : State × Answer :=
  answered .ok
    (if s.mgmt.sortHold then s
     else withRounds (fun s => let s1 := setSortHold true s; disarmAll (allArmed s1) s1) s)

/-- A SORT_RELEASE request (R195): the rounds of the chutes it makes available, and then the gate's grant attempt. The
manual gives the two receivers no order: DESIGN CHOICE (log 38). -/
def reqSortRelease (s : State) : State × Answer :=
  answered .ok (if s.mgmt.sortHold then grantAttempt (withRounds (setSortHold false) s) else s)

/-- Every counter set to 0. -/
def zeroAll (s : State) : State := { s with mgmt := { s.mgmt with counters := zeroCounters } }

/-- A SNAPSHOT request (R197): latch, zero, clear, reply. -/
def reqSnapshot (s : State) : State × Answer := (clearSticky (zeroAll s), some (.ok, snapshotBytes s))

/-! ### RESTART (section 11.6) -/

/-- The Bag Table at RESTART (R76). -/
def restartBags (s : State) : State := { s with bags := [], loopMeas := [] }

/-- A chute at RESTART (R143): its cage ABSENT, a POOLED class cleared. -/
def restartChute (r : Chute) : Chute :=
  { r with cage := absentCage, cls := if r.mode = .pooled then none else r.cls }

/-- Chute c at RESTART, with a CAGESIG CLOSED for a cage it held (R143). -/
def restartChuteAt (s : State) (c : Nat) : State :=
  match chuteAt s c with
  | some r =>
    let s1 := setChute c (restartChute r) s
    if r.role = .sort ∧ r.cage.state ≠ .absent then pushCagesig c .closed s1 else s1
  | none => s

/-- The Chute Allocator and the Divert Timer at RESTART (R143, R163). -/
def restartChutes (s : State) : State :=
  { (List.range 32).foldl restartChuteAt s with closedCages := [], queues := [] }

/-- The Stray Unit at RESTART (R190). -/
def restartStrays (s : State) : State :=
  { s with strays := { s.strays with entries := [], keyedOrder := [] } }

/-- Every block's RESTART values, in the order of R199's table: DEDUCED (log 24). -/
def restartBlocks (s : State) : State :=
  restartStrays (restartPlayers (restartChutes (abandonWalk 1 (abandonWalk 0
    (restartBags (restartGate (restartTracker s)))))))

/-- A RESTART request (R199, R200): it completes in its own event when there is nothing to sweep. -/
def reqRestart (slot : Nat) (s : State) : State × Answer :=
  let s1 := restartBlocks s
  match sweepFrom s1 0 0 with
  | some x => ({ s1 with mgmt := { s1.mgmt with restart := some { slot := slot, sweep := some x } } }, none)
  | none => answered .ok s1

/-! ### The taking of a request -/

/-- A query's answer: the state is unchanged (R196). -/
def asked (r : Status × List Byte) (s : State) : State × Answer := (s, some r)

/-- A QUERY request's arguments (R196). -/
def serveQuery (q : Nat) (args : List Byte) (s : State) : State × Answer :=
  if q = 1 then
    match args with
    | [g, b, h, l] => asked (queryCabin g.toNat b.toNat (nat16 h l) s) s
    | _ => answered .range s
  else if q = 2 then
    match args with
    | [h, l] => asked (queryBag (nat16 h l) s) s
    | _ => answered .range s
  else if q = 3 then
    match args with
    | [c] => asked (queryChute c.toNat s) s
    | _ => answered .range s
  else if q = 4 then
    match args with
    | [k, n, b] => asked (queryCage k.toNat n.toNat b.toNat s) s
    | _ => answered .range s
  else if q = 5 then
    match args with
    | [b] => asked (queryStray b.toNat s) s
    | _ => answered .range s
  else if q = 6 then
    match args with
    | [b] => asked (queryHold b.toNat s) s
    | _ => answered .range s
  else if q = 7 then
    match args with
    | [g] => asked (querySailing g.toNat s) s
    | _ => answered .range s
  else answered .badKind s

/-- A request with no arguments (R193). -/
def noArgs (args : List Byte) (f : State → State × Answer) (s : State) : State × Answer :=
  match args with
  | [] => f s
  | _ => answered .range s

/-- A request served by its kind and its argument bytes (R193). -/
def serve (slot kind : Nat) (args : List Byte) (s : State) : State × Answer :=
  if kind = 1 then
    reqLoad args s
  else if kind = 2 then
    match args with
    | [g, a, b, c, d] => reqCommit slot g.toNat (codeOf a b c d) s
    | _ => answered .range s
  else if kind = 3 then
    match args with
    | [g] => reqDiscard g.toNat s
    | _ => answered .range s
  else if kind = 4 then
    match args with
    | [g] => reqErase g.toNat s
    | _ => answered .range s
  else if kind = 5 then
    match args with
    | [g, a, d] => reqSailing g.toNat a.toNat d.toNat s
    | _ => answered .range s
  else if kind = 6 then
    match args with
    | [g] => reqLock g.toNat s
    | _ => answered .range s
  else if kind = 7 then
    match args with
    | [c, k] => reqPin c.toNat k.toNat s
    | _ => answered .range s
  else if kind = 8 then
    match args with
    | [c] => reqUnpin c.toNat s
    | _ => answered .range s
  else if kind = 9 then
    match args with
    | [p, m, l] => reqPlayer p.toNat m.toNat l.toNat s
    | _ => answered .range s
  else if kind = 10 then noArgs args reqSortHold s
  else if kind = 11 then noArgs args reqSortRelease s
  else if kind = 12 then
    match args with
    | q :: rest => serveQuery q.toNat rest s
    | [] => answered .range s
  else if kind = 13 then noArgs args reqSnapshot s
  else if kind = 14 then noArgs args (reqRestart slot) s
  else answered .badKind s

/-- The overflow refusal of R14. -/
def refuseRequest (tag kind : Byte) (s : State) : State :=
  pushTransit
    (replyBytes s.line.nodeAddr { tag := tag, kind := kind, status := .busy, summary := statusSummary s, results := [] }) s

/-- An owner's work and answer, with the reply built in the slot when there is one to build (R193). -/
def finishRequest (slot : Nat) (r : State × Answer) : State :=
  match r.2 with
  | some (st, bs) => buildReply slot st bs r.1
  | none => r.1

/-- A request of node 0 addressed to the part (R5, R14, R193): none reaches an off-line part; with no reply slot
FREE it is refused; otherwise it claims one and is served, or answered BUSY while a RESTART is in flight. -/
def takeReq (tag kind : Byte) (work : Nat → State → State × Answer) (s : State) : State :=
  if onLine s then
    match freeSlot s.line with
    | none => refuseRequest tag kind s
    | some k =>
      let s1 := claimSlot k tag kind s
      finishRequest k (if s1.mgmt.restart.isSome then answered .busy s1 else work k s1)
  else s

end Sys2Proof.Machine
end

