-- ==== Sys2Proof/Machine/Line.lean ====
section
/-! DEFINITION. The Line Interface's receive side (sections 1.2 and 1.3): the check and the receive decision of a frame at
LINE IN, and the attribution of consumed frames through the Node Table. -/

namespace Sys2Proof.Machine

/-- The Node Table entry of an address. -/
def entryAt (s : State) (addr : Nat) : Option NodeEntry :=
  s.nodes.findSome? fun (_, o) =>
    match o with
    | some e => if e.addr = addr then some e else none
    | none => none

/-- The kinds a role may send (R6). -/
def roleSends : NodeRole → FieldKind → Bool
  | .encoder, k => decide (k = .track)
  | .eye _, k => decide (k = .eye)
  | .scanner _, k => decide (k = .scan)
  | .station _, k => decide (k = .induct) || decide (k = .keyin)
  | .screening, k => decide (k = .hold)
  | .cage _, k => decide (k = .cage)
  | .drive, k => decide (k = .drive)

/-- An entry maps at least one ENCODE station (R6). -/
def mapsEncode (ids : List (Option StationId)) : Bool :=
  ids.any fun o =>
    match o with
    | some d => decide (d.type = .encode)
    | none => false

/-- The last test of R6, and the delivery of a frame that passes it to its owning block (R7). -/
def deliver (src : Nat) (role : NodeRole) (m : FieldMsg) (s : State) : State :=
  match m, role with
  | .track q d, .encoder => takeTrack q d s
  | .eye i edge stamp, .eye ids =>
    match (ids[i]?).join with
    | some id => takeEye id edge stamp s
    | none => bump .unknownSources s
  | .scan stamp codes, .scanner r => takeScan r stamp codes s
  | .induct i, .station ids =>
    match (ids[i]?).join with
    | some d => takeInduct d s
    | none => bump .unknownSources s
  | .keyin slot (some code), .station ids =>
    if mapsEncode ids then takeKeyinCode src slot code s else bump .unknownSources s
  | .keyin slot none, .station ids =>
    if mapsEncode ids then takeKeyinReject src slot s else bump .unknownSources s
  | .hold code false, .screening => takeHold src code s
  | .hold code true, .screening => takeRelease src code s
  | .cage e, .cage c => takeCage c e s
  | .drive ready, .drive => takeDrive ready s
  | _, _ => bump .unknownSources s

/-- A consumed field frame, by its source, its kind and its payload as read (R6, R8). Whatever its source, it is
discarded while a RESTART is in flight: DEDUCED (log 20). -/
def fieldFrame (src : Nat) (k : Option FieldKind) (m : Option FieldMsg) (s : State) : State :=
  if s.mgmt.restart.isSome then s
  else
    match entryAt s src, k with
    | some e, some k =>
      if roleSends e.role k then
        match m with
        | some m => deliver src e.role m s
        | none => bump .lineErrors s
      else bump .unknownSources s
    | _, _ => bump .unknownSources s

/-- A consumed frame (R5, R6). -/
def consume (f : RawFrame) (s : State) : State :=
  if f.src = 0 then
    if f.kind ≠ 0x30 then bump .unknownSources s
    else if f.dest = 127 then s
    else
      match f.payload with
      | tag :: kind :: args => takeReq tag kind (fun slot => serve slot kind.toNat args) s
      | _ => bump .lineErrors s
  else
    fieldFrame f.src (fieldKindOfCode f.kind) ((fieldKindOfCode f.kind).bind fun k => parseField k f.payload) s

/-- The receive decision for a good frame (R3). -/
def decideFrame (bytes : List Byte) (f : RawFrame) (s : State) : State :=
  if f.src = s.line.nodeAddr then s
  else if f.dest = s.line.nodeAddr then consume f s
  else if f.dest = 127 then consume f (pushTransit bytes s)
  else pushTransit bytes s

/-- A frame received at LINE IN (R1, R2, R3). -/
def receiveFrame (bytes : List Byte) (s : State) : State :=
  if onLine s then
    match parseFrame bytes with
    | some f => decideFrame bytes f s
    | none => bump .lineErrors s
  else { s with line := lineTransit bytes s.line }

/-- The field frame of a command, consumed from its source: none reaches an off-line part, and a frame that carries
the part's own address was stripped (R1, R3, R5). -/
def takeField (src : Byte) (m : FieldMsg) (s : State) : State :=
  if onLine s then
    if src.toNat = s.line.nodeAddr then s
    else if src.toNat = 0 then bump .unknownSources s
    else fieldFrame src.toNat (some (fieldKindOf m)) (some m) s
  else s

/-- The last byte of the frame on LINE OUT has been sent (R11). -/
def finishSending (s : State) : State :=
  match s.line.sending with
  | some x => leaveSource x.source s
  | none => s

end Sys2Proof.Machine
end

