-- ==== Sys2Proof/Machine/EngineCommands.lean ====
section
/-! DEFINITION. The meanings of the commands that are events inside the part or at its pins: one definition for each. An
event whose condition does not stand (a timer that is stopped, a count that is not reached, no frame sent, no walk, no
sweep) has no effect: DESIGN CHOICE (logs 2, 12, 37). -/

namespace Sys2Proof.Machine

/-- POWER_ON_RESET (R201): every block at its power-on values, the straps sampled (R1). The commands that wait, and the
count of choices taken, are the model's own and are kept. -/
def execPowerOnReset (straps : BitVec 7) (s : State) : Host.Outcome State Fault Refusal :=
  .next { powerOn straps.toNat with pending := s.pending, choices := s.choices }

/-- RESETN_LOW (R201, R1): the frame on LINE OUT is cut short; unsent replies, reports and executing requests are lost.
From here no command but POWER_ON_RESET has an effect. -/
def execResetnLow (s : State) : Host.Outcome State Fault Refusal :=
  .next
    { s with
      resetLow := true,
      line := { s.line with sending := none, slots := [], readyOrder := [] },
      mgmt := { s.mgmt with reports := [] } }

/-- TRANSMIT_COMPLETE (R11). -/
def execTransmitComplete (s : State) : Host.Outcome State Fault Refusal := event finishSending s

/-- SILENCE_TIMER_EXPIRY (R33). -/
def execSilenceTimerExpiry (s : State) : Host.Outcome State Fault Refusal := event expireSilence s

/-- RUN_IDLE_TIMER_EXPIRY (R53). -/
def execRunIdleTimerExpiry (s : State) : Host.Outcome State Fault Refusal := event expireRunIdle s

/-- SLOW_IDLE_TIMER_EXPIRY (R53). -/
def execSlowIdleTimerExpiry (s : State) : Host.Outcome State Fault Refusal := event expireSlowIdle s

/-- The remaining induct count is at 0 (R48). -/
def inductDue (s : State) : Bool :=
  match s.gate.inFlight with
  | some f => decide (f.remaining = 0)
  | none => false

/-- INDUCT_TIMEOUT (R48). -/
def execInductTimeout (s : State) : Host.Outcome State Fault Refusal :=
  event (fun s => if inductDue s then inductTimeoutNow s else s) s

/-- A measured advance is at the maximum bag length or beyond (R52, R68). -/
def lengthReached (s : State) (m : Option Measure) : Bool :=
  match s.tracker.cfg, m with
  | some c, some m => decide (c.maxBag ≤ m.m)
  | _, _ => false

/-- ENTRY_OVERSIZE (R52). -/
def execEntryOversize (s : State) : Host.Outcome State Fault Refusal :=
  event (fun s => if lengthReached s s.gate.entryMeas then entryOversizeNow s else s) s

/-- LOOP_EYE_LENGTH_REACHED (R68): the measurement closes with Lb unchanged. -/
def execLoopEyeLengthReached (eye : Nat) (s : State) : Host.Outcome State Fault Refusal :=
  event (fun s => if lengthReached s (measureAt s eye) then setMeasure eye none s else s) s

/-- Bag i is DIVERTING at its confirm deadline or beyond (R156). -/
def missDue (s : State) (i : Nat) : Bool :=
  match bagAt s i with
  | some b => deadlineReached b
  | none => false

/-- MISSED_DIVERT (R157). -/
def execMissedDivert (bag : Nat) (s : State) : Host.Outcome State Fault Refusal :=
  event (fun s => if missDue s bag then missDivert bag s else s) s

/-- WINDOW_HOLD_END (R171). -/
def execWindowHoldEnd (player : Nat) (s : State) : Host.Outcome State Fault Refusal := event (endWindow player) s

/-- RAMP_TIMER_EXPIRY (R170). -/
def execRampTimerExpiry (player : Nat) (s : State) : Host.Outcome State Fault Refusal := event (expireRamp player) s

/-- TIME_HOLD_EXPIRY (R171). -/
def execTimeHoldExpiry (player : Nat) (s : State) : Host.Outcome State Fault Refusal := event (expireTime player) s

/-- TRIGGER_TIMEOUT (R173). -/
def execTriggerTimeout (player : Nat) (s : State) : Host.Outcome State Fault Refusal := event (expireTrigger player) s

/-- COMMIT_STEP (R89). -/
def execCommitStep (sailing : Nat) (s : State) : Host.Outcome State Fault Refusal := event (walkStep sailing) s

/-- COMMIT_SWAP (R92). -/
def execCommitSwap (sailing : Nat) (s : State) : Host.Outcome State Fault Refusal := event (walkSwap sailing) s

/-- RESTART_SWEEP_STEP (R102). -/
def execRestartSweepStep (s : State) : Host.Outcome State Fault Refusal := event sweepStep s

/-- RESTART_COMPLETE (R200). -/
def execRestartComplete (s : State) : Host.Outcome State Fault Refusal := event completeRestart s

end Sys2Proof.Machine
end

