-- ==== Sys2Proof/Machine/FieldCommands.lean ====
section
/-! DEFINITION. The meanings of the commands that are frames of field nodes: one definition for each. Each is the event
of a consumed frame of its kind, tested by R6 and delivered as R7 states. -/

namespace Sys2Proof.Machine

/-- FRAME_RECEIVE (R3): a frame at LINE IN, checked, decided, and carried through to the block it reaches. -/
def execFrameReceive (bytes : List Byte) (s : State) : Host.Outcome State Fault Refusal :=
  event (receiveFrame bytes) s

/-- TRACK (R24). -/
def execTrack (src seq : Byte) (delta : BitVec 16) (s : State) : Host.Outcome State Fault Refusal :=
  event (takeField src (.track seq.toNat delta.toInt)) s

/-- EYE (R36). -/
def execEye (src idx : Byte) (edge : Edge) (stamp : Byte) (s : State) : Host.Outcome State Fault Refusal :=
  event (takeField src (.eye idx.toNat edge stamp.toNat)) s

/-- SCAN (R104). -/
def execScan (src stamp : Byte) (codes : List TagCode) (s : State) : Host.Outcome State Fault Refusal :=
  event (takeField src (.scan stamp.toNat codes)) s

/-- INDUCT (R40). -/
def execInduct (src idx : Byte) (s : State) : Host.Outcome State Fault Refusal :=
  event (takeField src (.induct idx.toNat)) s

/-- KEYIN_CODE (R184). -/
def execKeyinCode (src : Byte) (slot : BitVec 16) (code : TagCode) (s : State) : Host.Outcome State Fault Refusal :=
  event (takeField src (.keyin slot (some code))) s

/-- KEYIN_REJECT (R186). -/
def execKeyinReject (src : Byte) (slot : BitVec 16) (s : State) : Host.Outcome State Fault Refusal :=
  event (takeField src (.keyin slot none)) s

/-- HOLD (R115). -/
def execHold (src : Byte) (code : TagCode) (s : State) : Host.Outcome State Fault Refusal :=
  event (takeField src (.hold code false)) s

/-- RELEASE (R117). -/
def execRelease (src : Byte) (code : TagCode) (s : State) : Host.Outcome State Fault Refusal :=
  event (takeField src (.hold code true)) s

/-- CAGE_PRESENT (R134). -/
def execCagePresent (src : Byte) (cageId : BitVec 16) (s : State) : Host.Outcome State Fault Refusal :=
  event (takeField src (.cage (.present cageId.toNat))) s

/-- CAGE_FULL_ON (R136). -/
def execCageFullOn (src : Byte) (s : State) : Host.Outcome State Fault Refusal :=
  event (takeField src (.cage .fullOn)) s

/-- CAGE_FULL_OFF (R136). -/
def execCageFullOff (src : Byte) (s : State) : Host.Outcome State Fault Refusal :=
  event (takeField src (.cage .fullOff)) s

/-- CAGE_REMOVED (R137). -/
def execCageRemoved (src : Byte) (s : State) : Host.Outcome State Fault Refusal :=
  event (takeField src (.cage .removed)) s

/-- DRIVE_READY (R55). -/
def execDriveReady (src : Byte) (s : State) : Host.Outcome State Fault Refusal :=
  event (takeField src (.drive true)) s

/-- DRIVE_FAULT (R55). -/
def execDriveFault (src : Byte) (s : State) : Host.Outcome State Fault Refusal :=
  event (takeField src (.drive false)) s

end Sys2Proof.Machine
end

