-- ==== Sys2Proof/Machine/RequestCommands.lean ====
section
/-! DEFINITION. The meanings of the commands that are requests of node 0: one definition for each. Each is the event of a
request taken into a reply slot (R5, R13, R14) and handed to its owner (R193). -/

namespace Sys2Proof.Machine

/-- A query served: its results, and the state unchanged. -/
def queried (q : State → Status × List Byte) (_slot : Nat) (s : State) : State × Answer := asked (q s) s

/-- REQ_BAD_KIND (R193, R196): a request whose kind, or whose query kind, is not defined. -/
def execReqBadKind (tag kind : Byte) (args : List Byte) (s : State) : Host.Outcome State Fault Refusal :=
  event (takeReq tag kind fun slot => serve slot kind.toNat args) s

/-- LOAD (R84). -/
def execLoad (tag : Byte) (args : List Byte) (s : State) : Host.Outcome State Fault Refusal :=
  event (takeReq tag 1 fun _ => reqLoad args) s

/-- COMMIT (R88). -/
def execCommit (tag sailing : Byte) (checksum : BitVec 32) (s : State) : Host.Outcome State Fault Refusal :=
  event (takeReq tag 2 fun slot => reqCommit slot sailing.toNat checksum) s

/-- DISCARD (R95). -/
def execDiscard (tag sailing : Byte) (s : State) : Host.Outcome State Fault Refusal :=
  event (takeReq tag 3 fun _ => reqDiscard sailing.toNat) s

/-- ERASE (R96). -/
def execErase (tag sailing : Byte) (s : State) : Host.Outcome State Fault Refusal :=
  event (takeReq tag 4 fun _ => reqErase sailing.toNat) s

/-- CLOSE_DECK (R97). -/
def execCloseDeck (tag sailing deck : Byte) (s : State) : Host.Outcome State Fault Refusal :=
  event (takeReq tag 5 fun _ => reqCloseDeck sailing.toNat deck.toNat) s

/-- REOPEN_DECK (R97). -/
def execReopenDeck (tag sailing deck : Byte) (s : State) : Host.Outcome State Fault Refusal :=
  event (takeReq tag 5 fun _ => reqReopenDeck sailing.toNat deck.toNat) s

/-- CLOSE_SAILING (R97): the deck byte is not used. -/
def execCloseSailing (tag sailing _deck : Byte) (s : State) : Host.Outcome State Fault Refusal :=
  event (takeReq tag 5 fun _ => reqCloseSailing sailing.toNat) s

/-- OPEN_SAILING (R97): the deck byte is not used. -/
def execOpenSailing (tag sailing _deck : Byte) (s : State) : Host.Outcome State Fault Refusal :=
  event (takeReq tag 5 fun _ => reqOpenSailing sailing.toNat) s

/-- LOCK (R99). -/
def execLock (tag sailing : Byte) (s : State) : Host.Outcome State Fault Refusal :=
  event (takeReq tag 6 fun _ => reqLock sailing.toNat) s

/-- PIN (R131). -/
def execPin (tag chute cls : Byte) (s : State) : Host.Outcome State Fault Refusal :=
  event (takeReq tag 7 fun _ => reqPin chute.toNat cls.toNat) s

/-- UNPIN (R132). -/
def execUnpin (tag chute : Byte) (s : State) : Host.Outcome State Fault Refusal :=
  event (takeReq tag 8 fun _ => reqUnpin chute.toNat) s

/-- PLAYER_OFF (R169): the level byte is not used. -/
def execPlayerOff (tag player _level : Byte) (s : State) : Host.Outcome State Fault Refusal :=
  event (takeReq tag 9 fun _ => reqMode player.toNat .off) s

/-- PLAYER_AUTO (R169): the level byte is not used. -/
def execPlayerAuto (tag player _level : Byte) (s : State) : Host.Outcome State Fault Refusal :=
  event (takeReq tag 9 fun _ => reqMode player.toNat .auto) s

/-- PLAYER_DIRECT (R169). -/
def execPlayerDirect (tag player level : Byte) (s : State) : Host.Outcome State Fault Refusal :=
  event (takeReq tag 9 fun _ => reqDirect player.toNat level.toNat) s

/-- SORT_HOLD (R194). -/
def execSortHold (tag : Byte) (s : State) : Host.Outcome State Fault Refusal :=
  event (takeReq tag 10 fun _ => reqSortHold) s

/-- SORT_RELEASE (R195). -/
def execSortRelease (tag : Byte) (s : State) : Host.Outcome State Fault Refusal :=
  event (takeReq tag 11 fun _ => reqSortRelease) s

/-- QUERY_CABIN (R100). -/
def execQueryCabin (tag sailing bank : Byte) (selector : BitVec 16) (s : State) : Host.Outcome State Fault Refusal :=
  event (takeReq tag 12 (queried (queryCabin sailing.toNat bank.toNat selector.toNat))) s

/-- QUERY_BAG (R77). -/
def execQueryBag (tag : Byte) (index : BitVec 16) (s : State) : Host.Outcome State Fault Refusal :=
  event (takeReq tag 12 (queried (queryBag index.toNat))) s

/-- QUERY_CHUTE (R144). -/
def execQueryChute (tag chute : Byte) (s : State) : Host.Outcome State Fault Refusal :=
  event (takeReq tag 12 (queried (queryChute chute.toNat))) s

/-- QUERY_CAGE (R145). -/
def execQueryCage (tag source number start : Byte) (s : State) : Host.Outcome State Fault Refusal :=
  event (takeReq tag 12 (queried (queryCage source.toNat number.toNat start.toNat))) s

/-- QUERY_STRAY (R191). -/
def execQueryStray (tag start : Byte) (s : State) : Host.Outcome State Fault Refusal :=
  event (takeReq tag 12 (queried (queryStray start.toNat))) s

/-- QUERY_HOLD (R120). -/
def execQueryHold (tag start : Byte) (s : State) : Host.Outcome State Fault Refusal :=
  event (takeReq tag 12 (queried (queryHold start.toNat))) s

/-- QUERY_SAILING (R101). -/
def execQuerySailing (tag sailing : Byte) (s : State) : Host.Outcome State Fault Refusal :=
  event (takeReq tag 12 (queried (querySailing sailing.toNat))) s

/-- SNAPSHOT (R197). -/
def execSnapshot (tag : Byte) (s : State) : Host.Outcome State Fault Refusal :=
  event (takeReq tag 13 fun _ => reqSnapshot) s

/-- RESTART (R199). -/
def execRestart (tag : Byte) (s : State) : Host.Outcome State Fault Refusal :=
  event (takeReq tag 14 reqRestart) s

end Sys2Proof.Machine
end

