-- ==== Sys2Proof/Machine/Dispatch.lean ====
section
/-! DEFINITION. The meaning of each command, one arm for each. -/

namespace Sys2Proof.Machine

def exec (i : Instr) (s : State) : Host.Outcome State Fault Refusal :=
  match i with
  | .powerOnReset straps => Sys2Proof.Machine.execPowerOnReset straps s
  | .frameReceive bytes => Sys2Proof.Machine.execFrameReceive bytes s
  | .track src seq delta => Sys2Proof.Machine.execTrack src seq delta s
  | .eye src idx edge stamp => Sys2Proof.Machine.execEye src idx edge stamp s
  | .scan src stamp codes => Sys2Proof.Machine.execScan src stamp codes s
  | .induct src idx => Sys2Proof.Machine.execInduct src idx s
  | .keyinCode src slot code => Sys2Proof.Machine.execKeyinCode src slot code s
  | .keyinReject src slot => Sys2Proof.Machine.execKeyinReject src slot s
  | .hold src code => Sys2Proof.Machine.execHold src code s
  | .release src code => Sys2Proof.Machine.execRelease src code s
  | .cagePresent src cageId => Sys2Proof.Machine.execCagePresent src cageId s
  | .cageFullOn src => Sys2Proof.Machine.execCageFullOn src s
  | .cageFullOff src => Sys2Proof.Machine.execCageFullOff src s
  | .cageRemoved src => Sys2Proof.Machine.execCageRemoved src s
  | .driveReady src => Sys2Proof.Machine.execDriveReady src s
  | .driveFault src => Sys2Proof.Machine.execDriveFault src s
  | .reqBadKind tag kind args => Sys2Proof.Machine.execReqBadKind tag kind args s
  | .load tag args => Sys2Proof.Machine.execLoad tag args s
  | .commit tag sailing checksum => Sys2Proof.Machine.execCommit tag sailing checksum s
  | .discard tag sailing => Sys2Proof.Machine.execDiscard tag sailing s
  | .erase tag sailing => Sys2Proof.Machine.execErase tag sailing s
  | .closeDeck tag sailing deck => Sys2Proof.Machine.execCloseDeck tag sailing deck s
  | .reopenDeck tag sailing deck => Sys2Proof.Machine.execReopenDeck tag sailing deck s
  | .closeSailing tag sailing deck => Sys2Proof.Machine.execCloseSailing tag sailing deck s
  | .openSailing tag sailing deck => Sys2Proof.Machine.execOpenSailing tag sailing deck s
  | .lock tag sailing => Sys2Proof.Machine.execLock tag sailing s
  | .pin tag chute cls => Sys2Proof.Machine.execPin tag chute cls s
  | .unpin tag chute => Sys2Proof.Machine.execUnpin tag chute s
  | .playerOff tag player level => Sys2Proof.Machine.execPlayerOff tag player level s
  | .playerAuto tag player level => Sys2Proof.Machine.execPlayerAuto tag player level s
  | .playerDirect tag player level => Sys2Proof.Machine.execPlayerDirect tag player level s
  | .sortHold tag => Sys2Proof.Machine.execSortHold tag s
  | .sortRelease tag => Sys2Proof.Machine.execSortRelease tag s
  | .queryCabin tag sailing bank selector => Sys2Proof.Machine.execQueryCabin tag sailing bank selector s
  | .queryBag tag index => Sys2Proof.Machine.execQueryBag tag index s
  | .queryChute tag chute => Sys2Proof.Machine.execQueryChute tag chute s
  | .queryCage tag source number start => Sys2Proof.Machine.execQueryCage tag source number start s
  | .queryStray tag start => Sys2Proof.Machine.execQueryStray tag start s
  | .queryHold tag start => Sys2Proof.Machine.execQueryHold tag start s
  | .querySailing tag sailing => Sys2Proof.Machine.execQuerySailing tag sailing s
  | .snapshot tag => Sys2Proof.Machine.execSnapshot tag s
  | .restart tag => Sys2Proof.Machine.execRestart tag s
  | .transmitComplete => Sys2Proof.Machine.execTransmitComplete s
  | .silenceTimerExpiry => Sys2Proof.Machine.execSilenceTimerExpiry s
  | .runIdleTimerExpiry => Sys2Proof.Machine.execRunIdleTimerExpiry s
  | .slowIdleTimerExpiry => Sys2Proof.Machine.execSlowIdleTimerExpiry s
  | .inductTimeout => Sys2Proof.Machine.execInductTimeout s
  | .entryOversize => Sys2Proof.Machine.execEntryOversize s
  | .loopEyeLengthReached eye => Sys2Proof.Machine.execLoopEyeLengthReached eye s
  | .missedDivert bag => Sys2Proof.Machine.execMissedDivert bag s
  | .windowHoldEnd player => Sys2Proof.Machine.execWindowHoldEnd player s
  | .rampTimerExpiry player => Sys2Proof.Machine.execRampTimerExpiry player s
  | .timeHoldExpiry player => Sys2Proof.Machine.execTimeHoldExpiry player s
  | .triggerTimeout player => Sys2Proof.Machine.execTriggerTimeout player s
  | .commitStep sailing => Sys2Proof.Machine.execCommitStep sailing s
  | .commitSwap sailing => Sys2Proof.Machine.execCommitSwap sailing s
  | .restartSweepStep => Sys2Proof.Machine.execRestartSweepStep s
  | .restartComplete => Sys2Proof.Machine.execRestartComplete s
  | .resetnLow => Sys2Proof.Machine.execResetnLow s

end Sys2Proof.Machine
end

