-- ==== Sys2Proof/Safety.lean ====
section
/-! DEFINITION. The terms in which claims about the part are stated: a state up to LINE OUT's own choice, the conditions
under which a request or a field frame is taken, a reply standing in its slot, and the part's invariants. -/

namespace Sys2Proof.Machine

/-! ### A state up to the choice of LINE OUT -/

/-- A line without what the LINE OUT arbiter alone changes: the frame being sent and the transit run count. -/
def Line.still (l : Line) : Line := { l with sending := none, runCount := 0 }

/-- A state without what the LINE OUT arbiter alone changes. Two states with the same still state differ at most in
the frame that LINE OUT has taken up and in its run count. -/
def State.still (s : State) : State := { s with line := s.line.still }

/-- A command's outcome is a next state that is e but for the choice of LINE OUT. -/
def Gives (o : Host.Outcome State Fault Refusal) (e : State) : Prop := ∃ t, o = .next t ∧ t.still = e.still

/-! ### When a command is taken -/

/-- The part is running and on-line: RESETN is high and the address is 1 to 126 (R1). -/
def Running (s : State) : Prop := s.resetLow = false ∧ onLine s = true

/-- A request is taken and executed: the part is running, reply slot k is the one claimed, and no RESTART is in
flight (R13, R193). -/
def Takes (s : State) (k : Nat) : Prop := Running s ∧ freeSlot s.line = some k ∧ s.mgmt.restart = none

/-- A field frame of a source is taken under a Node Table entry with a role: the part is running, the source is a
field node's and not the part's own, no RESTART is in flight, and the table attributes the source (R6, R8). -/
def Attributed (s : State) (src : Byte) (role : NodeRole) : Prop :=
  Running s ∧ src.toNat ≠ 0 ∧ src.toNat ≠ s.line.nodeAddr ∧ s.mgmt.restart = none ∧
    ∃ e, entryAt s src.toNat = some e ∧ e.role = role

/-! ### The frames that carry commands -/

/-- The source and the message of the field frame that a command stands for (section 1.8). -/
def fieldOf : Instr → Option (Byte × FieldMsg)
  | .track src q d => some (src, .track q.toNat d.toInt)
  | .eye src i e q => some (src, .eye i.toNat e q.toNat)
  | .scan src q cs => some (src, .scan q.toNat cs)
  | .induct src i => some (src, .induct i.toNat)
  | .keyinCode src n c => some (src, .keyin n (some c))
  | .keyinReject src n => some (src, .keyin n none)
  | .hold src c => some (src, .hold c false)
  | .release src c => some (src, .hold c true)
  | .cagePresent src n => some (src, .cage (.present n.toNat))
  | .cageFullOn src => some (src, .cage .fullOn)
  | .cageFullOff src => some (src, .cage .fullOff)
  | .cageRemoved src => some (src, .cage .removed)
  | .driveReady src => some (src, .drive true)
  | .driveFault src => some (src, .drive false)
  | _ => none

/-- The payload of the REQ that a command stands for: tag, request kind code, arguments (section 1.8, R193). -/
def requestOf : Instr → Option (List Byte)
  | .reqBadKind tag kind args => some (tag :: kind :: args)
  | .load tag args => some (tag :: 1 :: args)
  | .commit tag g x => some (tag :: 2 :: g :: be32 x.toNat)
  | .discard tag g => some [tag, 3, g]
  | .erase tag g => some [tag, 4, g]
  | .closeDeck tag g d => some [tag, 5, g, 0, d]
  | .reopenDeck tag g d => some [tag, 5, g, 1, d]
  | .closeSailing tag g d => some [tag, 5, g, 2, d]
  | .openSailing tag g d => some [tag, 5, g, 3, d]
  | .lock tag g => some [tag, 6, g]
  | .pin tag c k => some [tag, 7, c, k]
  | .unpin tag c => some [tag, 8, c]
  | .playerOff tag p l => some [tag, 9, p, 0, l]
  | .playerAuto tag p l => some [tag, 9, p, 1, l]
  | .playerDirect tag p l => some [tag, 9, p, 2, l]
  | .sortHold tag => some [tag, 10]
  | .sortRelease tag => some [tag, 11]
  | .queryCabin tag g b x => some ([tag, 12, 1, g, b] ++ be16 x.toNat)
  | .queryBag tag i => some ([tag, 12, 2] ++ be16 i.toNat)
  | .queryChute tag c => some [tag, 12, 3, c]
  | .queryCage tag k n b => some [tag, 12, 4, k, n, b]
  | .queryStray tag b => some [tag, 12, 5, b]
  | .queryHold tag b => some [tag, 12, 6, b]
  | .querySailing tag g => some [tag, 12, 7, g]
  | .snapshot tag => some [tag, 13]
  | .restart tag => some [tag, 14]
  | _ => none

/-- The frame, addressed to the part at addr, that a command stands for: none for an event inside the part or at its
pins, and for FRAME_RECEIVE. -/
def commandFrame (addr : Nat) (c : Instr) : Option RawFrame :=
  match fieldOf c, requestOf c with
  | some (src, m), _ =>
    some { dest := addr, src := src.toNat, kind := fieldKindCode (fieldKindOf m), payload := fieldPayload m }
  | none, some p => some { dest := addr, src := 0, kind := 0x30, payload := p }
  | none, none => none

/-- The frame kind codes that an entry's role may send (R6's table, with the codes of section 1.8). -/
def roleCodes : NodeRole → List Nat
  | .encoder => [0x10]
  | .eye _ => [0x11]
  | .scanner _ => [0x12]
  | .station _ => [0x13, 0x14]
  | .screening => [0x15]
  | .cage _ => [0x16]
  | .drive => [0x17]

/-- The payload lengths a field frame kind may have (section 1.8). -/
def fieldLengths : FieldKind → List Nat
  | .track => [3]
  | .eye => [3]
  | .scan => [2, 6, 10, 14, 18]
  | .induct => [1]
  | .keyin => [7]
  | .hold => [5]
  | .cage => [3]
  | .drive => [1]

/-! ### Frames forwarded, replies and control frames -/

/-- The state with a frame at the tail of the transit queue, or with the frame dropped and counted (R3, R14). -/
def withForwarded (bytes : List Byte) (s : State) : State :=
  if s.line.transit.length < 32 then { s with line := { s.line with transit := s.line.transit ++ [bytes] } }
  else { s with mgmt := { s.mgmt with counters :=
    { s.mgmt.counters with transitDrops := min 65535 (s.mgmt.counters.transitDrops + 1) } } }


/-- The state with reply slot k READY behind the slots READY before it, its reply echoing tag and kind and carrying
the status, the status summary byte of the state, and the results (R13, R19). -/
def withReply (k : Nat) (tag kind : Byte) (st : Status) (res : List Byte) (s : State) : State :=
  { s with line :=
    { s.line with
      slots := tablePut .free s.line.slots k
        (.ready { tag := tag, kind := kind, status := st, summary := statusSummary s, results := res }),
      readyOrder := s.line.readyOrder ++ [k] } }

/-- The state with one control frame at the tail of the control queue, or with the frame dropped and CONTROL_OVERRUN
set (R12). -/
def withControl (dest : Nat) (m : CtrlMsg) (s : State) : State :=
  if s.line.control.length < 32 then
    { s with line := { s.line with control := s.line.control ++ [{ dest := dest, msg := m }] } }
  else { s with line := { s.line with controlOverrun := true } }

/-- The state with one report at the tail of the report queue, or with the report dropped and REPORT_LOST set
(R198). -/
def withReport (r : Report) (s : State) : State :=
  if s.mgmt.reports.length < 64 then { s with mgmt := { s.mgmt with reports := s.mgmt.reports ++ [r] } }
  else { s with mgmt := { s.mgmt with reportLost := true } }

/-- The state with a speed state, a change of which builds one SPEED frame while a DRIVE entry exists (R54). -/
def withSpeed (v : SpeedState) (s : State) : State :=
  if s.gate.speed = v then s
  else
    let t : State := { s with gate := { s.gate with speed := v } }
    match driveAddr s with
    | some a => withControl a (.speed v) t
    | none => t

/-- The state a request or the creation of a record leaves the loop drive in (R53): RUN, and both timers stopped. -/
def awake (s : State) : State := withSpeed .run { s with gate := { s.gate with runTimer := none, slowTimer := none } }

/-- What a counter of the snapshot stands at (R197). -/
def counterOf (c : Counter) (k : Counters) : Nat :=
  match c with
  | .inducted => k.inducted
  | .loaded => k.loaded
  | .strayed => k.strayed
  | .overflowed => k.overflowed
  | .loose => k.loose
  | .lost => k.lost
  | .noShows => k.noShows
  | .ghosts => k.ghosts
  | .unattached => k.unattached
  | .misreads => k.misreads
  | .stale => k.stale
  | .overspeed => k.overspeed
  | .missedDiverts => k.missedDiverts
  | .lineErrors => k.lineErrors
  | .transitDrops => k.transitDrops
  | .unknownSources => k.unknownSources

/-- A sailing's STAGING bank after the change f of the ACTIVE record of a code's cabin has been mirrored into it: while a
walk carries and its cursor has reached the cabin, f is made in the STAGING record of that cabin number, if there is one
(R90). -/
def mirrored (g : Sailing) (code : TagCode) (f : Cabin → Cabin) : Bank :=
  match g.walk with
  | some w =>
    if w.carrying && w.cursor.any fun k => decide (cabinField code ≤ k) then
      match bankFind g.staging (cabinField code) with
      | some (q, y) => { g.staging with recs := tablePut blankCabin g.staging.recs q (f y) }
      | none => g.staging
    else g.staging
  | none => g.staging

/-- A record that joins the seen set of its cabin (R83). -/
def withSeen (code : TagCode) (y : Cabin) : Cabin := { y with seen := y.seen ||| serialBit (serialField code) }

/-- The part after sailing 0's ACTIVE record x at position p has had its serial joined to the seen set, mirrored into STAGING
where R90 mirrors it. -/
def withSeen0 (code : TagCode) (p : Nat) (x : Cabin) (s : State) : State :=
  { s with sailing0 := { s.sailing0 with
      active := { s.sailing0.active with recs := tablePut blankCabin s.sailing0.active.recs p (withSeen code x) }
      staging := mirrored s.sailing0 code (withSeen code) } }

/-! ### The tables that LOAD writes (sections 1.4, 1.8) -/

/-- A Node Table entry as R10 allows it at a part of an address: its own address 1 to 126 and another than the part's, and
identities within the ranges of section 1.8. -/
def NodeOk (own : Nat) (e : NodeEntry) : Prop :=
  1 ≤ e.addr ∧ e.addr ≤ 126 ∧ e.addr ≠ own ∧
    match e.role with
    | .eye ids => ids.length = 4 ∧ (∀ k, some (EyeId.loop k) ∈ ids → 1 ≤ k ∧ k ≤ 7) ∧ ∀ c, some (EyeId.chute c) ∈ ids → c < 32
    | .scanner r => r ≤ 1
    | .station ids => ids.length = 4 ∧ ∀ d, some d ∈ ids → d.number ≤ 3
    | .cage c => c < 32
    | _ => True

/-- The role code and identity bytes of a Node Table entry (section 1.8). -/
def nodeRecord (e : NodeEntry) : List Byte :=
  let unused : List Byte := [0xFF, 0xFF, 0xFF, 0xFF]
  byteOf e.addr :: match e.role with
    | .encoder => 1 :: unused
    | .eye ids => 2 :: ids.map fun
        | none => 0xFF
        | some .entry => 0
        | some (.loop k) => byteOf k
        | some (.chute c) => byteOf (32 + c)
    | .scanner r => [3, byteOf r, 0xFF, 0xFF, 0xFF]
    | .station ids => 4 :: ids.map fun
        | none => 0xFF
        | some { number := n, type := .normal } => byteOf n
        | some { number := n, type := .encode } => byteOf (128 + n)
    | .screening => 5 :: unused
    | .cage c => [6, byteOf c, 0xFF, 0xFF, 0xFF]
    | .drive => 7 :: unused

/-- No two entries of a Node Table share an address, at most one is the ENCODER and one the DRIVE, and no eye, reader,
station number or cage chute is mapped twice (R10). -/
def NodesDistinct (t : Table (Option NodeEntry)) : Prop :=
  let es := t.filterMap Prod.snd
  (es.map (·.addr)).Nodup ∧ (es.filter fun e => decide (e.role = .encoder)).length ≤ 1 ∧
    (es.filter fun e => decide (e.role = .drive)).length ≤ 1 ∧
    (es.flatMap fun e => match e.role with | .eye ids => ids.filterMap id | _ => []).Nodup ∧
    (es.filterMap fun e => match e.role with | .scanner r => some r | _ => none).Nodup ∧
    (es.flatMap fun e => match e.role with | .station ids => ids.filterMap fun o => o.map (·.number) | _ => []).Nodup ∧
    (es.filterMap fun e => match e.role with | .cage c => some c | _ => none).Nodup

/-- A two-byte field of a record. -/
def word (r : List Byte) (k : Nat) : Nat := nat16 (r.getD k 0) (r.getD (k + 1) 0)

/-- A one-byte field of a record. -/
def byteAt (r : List Byte) (k : Nat) : Nat := (r.getD k 0).toNat

/-- The loop configuration that a 42-byte LOOP record lays out (section 2.1). -/
def loopRecord (r : List Byte) : LoopCfg :=
  let pos := fun k => if word r k = 65535 then none else some (word r k)
  { len := word r 0, entryPos := word r 2, eyes := [pos 4, pos 6, pos 8, pos 10, pos 12, pos 14, pos 16],
    reader0 := pos 18, reader1 := pos 20, eyeTol := byteAt r 22, wideTol := word r 23, recircLimit := byteAt r 25,
    loopLimit := word r 26, gapBefore := word r 28, gapAfter := word r 30, maxBag := word r 32, inductTimeout := word r 34,
    runIdle := word r 36, slowIdle := word r 38, vRun := word r 40 }

/-- A loop configuration within the ranges of R20. -/
def LoopInRange (c : LoopCfg) : Prop :=
  8192 ≤ c.len ∧ c.entryPos ≤ 1023 ∧
    (∀ p, some p ∈ c.reader0 :: c.reader1 :: c.eyes → c.entryPos < p ∧ p < c.len) ∧ c.eyeTol ≤ c.wideTol ∧
    c.wideTol ≤ 2047 ∧ c.recircLimit ≤ 15 ∧ 1 ≤ c.loopLimit ∧ c.loopLimit ≤ 480 ∧ c.gapBefore ≤ 4095 ∧
    c.gapAfter ≤ 4095 ∧ 256 ≤ c.maxBag ∧ c.maxBag ≤ 2047 ∧ 1 ≤ c.inductTimeout ∧ c.inductTimeout ≤ 8191 ∧
    1 ≤ c.runIdle ∧ c.runIdle ≤ 600 ∧ 1 ≤ c.slowIdle ∧ c.slowIdle ≤ 3600 ∧ 1 ≤ c.vRun ∧ c.vRun ≤ 16368 ∧
    (c.eyes.filterMap id).Pairwise (· < ·) ∧ c.gapBefore + c.maxBag + c.gapAfter < c.len

/-- The chute that a 17-byte CHUTE record makes (section 7.1, R124): no cage, and a class only where it is SORT and
PINNED. The capacity and cage node bytes are kept as written whatever the role (log 25). -/
def chuteRecord (r : List Byte) : Chute :=
  let role := match byteAt r 0 with
    | 1 => ChuteRole.sort
    | 2 => .stray
    | 3 => .overflow
    | _ => .disabled
  { role := role,
    mode := if role = .sort ∧ byteAt r 1 = 0 then .pinned else .pooled,
    cls := if role = .sort ∧ byteAt r 1 = 0 then some (byteAt r 2) else none,
    pos := word r 3, diverter := byteAt r 5, takeaway := if byteAt r 6 = 255 then none else some (byteAt r 6),
    profile := byteAt r 7, leadTime := word r 8, margin := byteAt r 10, armDist := word r 11, confirmDist := word r 13,
    capacity := byteAt r 15, cageNode := byteAt r 16, cage := absentCage }

/-- The second and third rows of R123 on a CHUTE record. -/
def ChuteInRange (r : List Byte) : Prop :=
  byteAt r 0 ≤ 3 ∧ 4096 ≤ word r 3 ∧ word r 3 ≤ 64511 ∧ byteAt r 5 ≤ 39 ∧
    (byteAt r 6 = 255 ∨ (byteAt r 6 ≤ 39 ∧ byteAt r 6 ≠ byteAt r 5)) ∧ byteAt r 7 ≤ 15 ∧ word r 8 ≤ 1000 ∧
    word r 11 ≤ 4095 ∧ 1 ≤ word r 13 ∧ word r 13 ≤ 4095 ∧
    (byteAt r 0 = 1 → byteAt r 1 ≤ 1 ∧ 1 ≤ byteAt r 15 ∧ byteAt r 15 ≤ 64 ∧ 1 ≤ byteAt r 16 ∧ byteAt r 16 ≤ 126 ∧
      (byteAt r 1 = 0 → byteAt r 2 ≤ 61) ∧ (byteAt r 1 = 1 → byteAt r 2 = 255))

/-- Segment k of a 49-byte PROFILE record (section 9.1). -/
def segmentRecord (r : List Byte) (k : Nat) : Segment :=
  let at_ := fun j => byteAt r (1 + 6 * k + j)
  { level := at_ 0, ramp := 10 * at_ 1,
    hold := match at_ 2 / 16 with
      | 0 => .time (256 * at_ 3 + at_ 4)
      | 1 => .window
      | _ => .trigger (at_ 2 % 16) (256 * at_ 3 + at_ 4),
    outs := r.getD (1 + 6 * k + 5) 0 }

/-- A counted segment of a PROFILE record within the ranges of R166. -/
def SegmentInRange (r : List Byte) (k : Nat) : Prop :=
  let at_ := fun j => byteAt r (1 + 6 * k + j)
  at_ 1 ≤ 200 ∧ at_ 2 / 16 ≤ 2 ∧ (at_ 2 / 16 = 0 → 256 * at_ 3 + at_ 4 ≤ 5000) ∧
    (at_ 2 / 16 = 2 → at_ 2 % 16 ≤ 7 ∧ 1 ≤ 256 * at_ 3 + at_ 4 ∧ 256 * at_ 3 + at_ 4 ≤ 5000)

/-! ### The tracker's own course (chapter 2) -/

/-- A sample of advance a entered: P moved by it, and one history entry made, the oldest of seventeen removed (R29, R30). -/
def Tracker.sampled (q a : Nat) (t : Tracker) : Tracker :=
  let p := if a = 0 then t.pos else (t.pos + a) % (t.cfg.map (·.len)).getD 0
  { t with
    pos := p,
    history := (t.history ++ [HistEntry.mk q p a]).drop (t.history.length + 1 - 16) }

/-- A cause of R34: BLIND from TRACKING, and the clean run count 0. -/
def Tracker.lost (t : Tracker) : Tracker :=
  { t with state := if t.state = .tracking then .blind else t.state, clean := 0 }

/-- A received sample (R27 to R31): whether it overran the debt, and the tracker after it. -/
def Tracker.received (q : Nat) (d : Int) (t : Tracker) : Bool × Tracker :=
  let forward := (min d 1023).toNat
  let owed := t.debt + (-d).toNat
  let overrun := decide (d < 0) && decide (255 < owed)
  let a := forward - t.debt
  let t1 := if overrun then { t.lost with debt := 0 } else { t with debt := owed - min forward t.debt }
  (overrun, Tracker.sampled q a
    { t1 with speed := (min 16368 (max 0 ((t.speed : Int) + (16 * (a : Int) - t.speed) / 4))).toNat })

/-- The clean run count after a received frame in BLIND, and the return to TRACKING at the eighth (R35). -/
def Tracker.counted (clean : Bool) (t : Tracker) : Tracker :=
  if t.state = .blind then
    if clean then (if t.clean = 7 then { t with state := .tracking, clean := 0 } else { t with clean := t.clean + 1 })
    else { t with clean := 0 }
  else t

/-- The tracker after a TRACK frame (R24 to R35). -/
def Tracker.after (q : Nat) (d : Int) (t : Tracker) : Tracker :=
  if t.cfg.isNone then t
  else if t.state = .notReady then
    let t1 : Tracker := { t with state := .tracking, clean := 0 }
    { (t1.received q d).2 with expected := some ((q + 1) % 256), clean := 0, silence := true }
  else
    let k := (q + 256 - (t.expected.getD q) % 256) % 256
    if 128 ≤ k then t
    else
      let t1 :=
        if 4 ≤ k then t.lost
        else (List.range k).foldl (fun u j => u.sampled ((q + 256 - k + j) % 256) (t.speed / 16)) t
      let r := t1.received q d
      { r.2.counted (decide (k = 0) && !r.1) with expected := some ((q + 1) % 256), silence := true }

/-- Nothing on the belt, at the gate or in a player's hold stands to be moved by an advance or granted. -/
structure BeltClear (s : State) : Prop where
  bags : s.bags = []
  loopMeas : s.loopMeas = []
  inFlight : s.gate.inFlight = none
  entryMeas : s.gate.entryMeas = none
  windows : windowPlayers s = []
  requests : s.gate.slots = []

/-- The history holds a stamp exactly once, and adv is the sum of the advances entered after it (R36). -/
def Stamped (s : State) (stamp adv : Nat) : Prop :=
  ∃ h e h', s.tracker.history = h ++ e :: h' ∧ e.seq = stamp ∧ (∀ x ∈ h ++ h', x.seq ≠ stamp) ∧
    adv = (h'.map (·.adv)).sum

/-- The lowest-numbered free index of the Bag Table (R59). -/
def LowestFree (s : State) (k : Nat) : Prop := k < 512 ∧ bagAt s k = none ∧ ∀ j < k, bagAt s j ≠ none

/-- No chute is available (R126), so that no offer is made and no bag is armed: none is loaded, or the sort is held, or the
tracker is not TRACKING, or each chute lacks a condition of its own. -/
def NoneAvailable (s : State) : Prop := ∀ c < 32, available s c = false

/-- The bag record a grant creates for a station, with the code paired with it, if any (R59, R188). -/
def newBag (station : Nat) (o : Option Owned) : Bag :=
  { state := .inducting, station := some station, edge := none, len := none, recirc := 0, expEye := none, misses := 0,
    uncertain := false, oversize := false, lastScan := [], owned := o, target := none, divert := none }

/-- The part with every ARMED bag ROUTED and its entry out of its fire queue, DIVERTING bags and their ranks as they were
(R158). -/
def allDisarmed (s : State) : State :=
  { s with
    bags := s.bags.map fun (i, o) =>
      (i, o.map fun b => if b.state = .armed then { b with state := .routed, divert := none } else b)
    queues := s.queues.filterMap fun (c, q) =>
      match q.filter fun e => !inState s e.bag .armed with
      | [] => none
      | q' => some (c, q') }

/-! ### Invariants -/

/-- The tables of a bank are in canonical form. -/
def BankWf (b : Bank) : Prop := TableWf blankCabin b.recs ∧ TableWf none b.map

/-- The tables of a sailing's banks are in canonical form. -/
def SailingWf (g : Sailing) : Prop := BankWf g.active ∧ BankWf g.staging

/-- Every numbered table of the part is in canonical form, so that equal collections are equal data. -/
structure TablesWf (s : State) : Prop where
  slots : TableWf Slot.free s.line.slots
  nodes : TableWf none s.nodes
  requests : TableWf none s.gate.slots
  bags : TableWf none s.bags
  loopMeas : TableWf none s.loopMeas
  sailing0 : SailingWf s.sailing0
  sailing1 : SailingWf s.sailing1
  chutes : TableWf none s.chutes
  queues : TableWf [] s.queues
  profiles : TableWf [] s.players.profiles
  players : TableWf resetPlayer s.players.players
  lines : TableWf none s.players.lines

/-- Every counter is 0 to 65535 (R197). -/
def CountersBounded (k : Counters) : Prop :=
  k.inducted ≤ 65535 ∧ k.loaded ≤ 65535 ∧ k.strayed ≤ 65535 ∧ k.overflowed ≤ 65535 ∧ k.loose ≤ 65535 ∧
    k.lost ≤ 65535 ∧ k.noShows ≤ 65535 ∧ k.ghosts ≤ 65535 ∧ k.unattached ≤ 65535 ∧ k.misreads ≤ 65535 ∧
    k.stale ≤ 65535 ∧ k.overspeed ≤ 65535 ∧ k.missedDiverts ≤ 65535 ∧ k.lineErrors ≤ 65535 ∧
    k.transitDrops ≤ 65535 ∧ k.unknownSources ≤ 65535

/-- The part's queues, lists and counts lie within the bounds the manual gives them: the transit and control queues
(R4, R12), the transit run count (R16), the report queue and the counters (R198, R197), the hold list with its codes
well-formed and distinct (R114), the closed cage history (R142), and the tracker's debt, speed estimate and
history (R28, R31, R30). -/
structure Bounded (s : State) : Prop where
  transit : s.line.transit.length ≤ 32
  control : s.line.control.length ≤ 32
  runCount : s.line.runCount ≤ 8
  reports : s.mgmt.reports.length ≤ 64
  counters : CountersBounded s.mgmt.counters
  holds : s.holds.length ≤ 32
  distinct : s.holds.Nodup
  wellFormed : ∀ c ∈ s.holds, wellFormedCode c = true
  closedCages : s.closedCages.length ≤ 8
  debt : s.tracker.debt ≤ 255
  speed : s.tracker.speed ≤ 16368
  history : s.tracker.history.length ≤ 16

/-- The reservations of R125 and R182: no fire queue holds more than three bags, only chutes 0 to 31 have one, a SORT
chute's known count with its committed count does not exceed its capacity, and the stray entries with the committed
counts of all STRAY chutes do not exceed 64. -/
structure Reserved (s : State) : Prop where
  three : ∀ c, committed s c ≤ 3
  chutes : ∀ c, 32 ≤ c → committed s c = 0
  cages : ∀ c r, chuteAt s c = some r → r.role = .sort → r.cage.loaded.length + committed s c ≤ r.capacity
  strays : s.strays.entries.length + strayCommitted s ≤ 64

/-- The reply slots of R13: the READY slots are exactly those in the sending order, each of them there once, and no
slot but 0 to 3 is in use. -/
structure SlotsAgree (s : State) : Prop where
  once : s.line.readyOrder.Nodup
  ready : ∀ i, i ∈ s.line.readyOrder ↔ ∃ r, tableGet Slot.free s.line.slots i = .ready r
  four : ∀ i, 4 ≤ i → tableGet Slot.free s.line.slots i = .free

/-! ### The records, the fire queues and the bench in order -/

/-- Record i is live and has been positioned on the belt. -/
def placed (s : State) (i : Nat) : Bool :=
  match bagAt s i with
  | some b => decide (b.state ≠ .inducting)
  | none => false

/-- A chute's role is the one that a target's bags go to (R154). -/
def roleTakes (r : ChuteRole) (t : Option Target) : Bool :=
  match r, t with
  | .sort, some (.sort _) => true
  | .stray, some (.stray _) => true
  | .overflow, some (.overflow _) => true
  | _, _ => false

/-- What an ARMED or DIVERTING record i of divert v stands by: a loaded chute whose role takes its target, and an entry of
that chute's fire queue (R150, R154). -/
def Queued (s : State) (i : Nat) (b : Bag) (v : Divert) : Prop :=
  v.chute < 32 ∧ i ∈ (queueAt s v.chute).map (·.bag) ∧
    match chuteAt s v.chute with
    | some r => roleTakes r.role b.target = true
    | none => False

/-- What live record i holds by its state (sections 4.1 and 4.2): no edge, length, eye, target or divert while INDUCTING,
and then it is the induction in flight (R42); an edge on the loop and a length afterwards; no target while UNREAD and one from
then on (R61); an owned code beside a SORT target (R61); a divert exactly while ARMED or DIVERTING; and ARMED only in
TRACKING with the sort hold clear (R153, R159, R160). -/
structure BagOrderly (s : State) (i : Nat) (b : Bag) : Prop where
  index : i < 512
  recirc : b.recirc ≤ 15
  misses : b.misses ≤ 1
  inducting : b.state = .inducting →
    b.edge = none ∧ b.len = none ∧ b.expEye = none ∧ b.target = none ∧ b.recirc = 0 ∧
      s.gate.inFlight.map (·.bag) = some i
  positioned : b.state ≠ .inducting → b.edge.isSome = true ∧ b.len.isSome = true ∧ b.edge.getD 0 < loopLen s
  unread : b.state = .unread → b.target = none
  targeted : b.state = .routed ∨ b.state = .armed ∨ b.state = .diverting → b.target.isSome = true
  sortOwned : isSort b.target = true → b.owned.isSome = true
  divert : b.divert.isSome = true ↔ b.state = .armed ∨ b.state = .diverting
  queued : ∀ v, b.divert = some v → Queued s i b v
  armed : b.state = .armed → s.tracker.state = .tracking ∧ s.mgmt.sortHold = false

/-- Chute c's fire queue (R150, R154): each bag once, in increasing F; every entry an ARMED bag of the chute without a
firing rank or a DIVERTING one with a rank; the ranks 1 to the number of DIVERTING bags, each once. -/
structure QueueOrderly (s : State) (c : Nat) : Prop where
  once : ((queueAt s c).map (·.bag)).Nodup
  rising : (queueAt s c).Pairwise fun x y => fireOf s x.bag ≤ fireOf s y.bag
  states : ∀ e ∈ queueAt s c,
    ((inState s e.bag .armed = true ∧ e.rank = none) ∨ (inState s e.bag .diverting = true ∧ e.rank.isSome = true)) ∧
      ((bagAt s e.bag).bind (·.divert)).map (·.chute) = some c
  distinct : ((queueAt s c).filterMap (·.rank)).Nodup
  ranks : ∀ r ∈ (queueAt s c).filterMap (·.rank), 1 ≤ r ∧ r ≤ ((queueAt s c).filterMap (·.rank)).length

/-- The stray list and the keyed order (sections 10.1 and 10.3): slots below 65536 in increasing order, and the keyed order
made of the KEYED entries' slots, each once. -/
structure StraysOrderly (x : Strays) : Prop where
  rising : (x.entries.map (·.slot)).Pairwise (· < ·)
  slots : ∀ e ∈ x.entries, e.slot < 65536
  next : x.nextSlot < 65536
  once : x.keyedOrder.Nodup
  keyed : ∀ n, n ∈ x.keyedOrder ↔ n ∈ (x.entries.filter (·.keyed.isSome)).map (·.slot)

/-- The live records, what refers to them, the fire queues, the cages' unknown counts, the stray list, the tracker's
position and the Node Table are in order: the bounds and the agreements of sections 1.4, 2.1, 2.5, 4.1, 7.6, 8.2, 10.1 and
10.3. -/
structure Orderly (s : State) : Prop where
  bags : ∀ x ∈ liveBags s, BagOrderly s x.1 x.2
  inFlight : ∀ f, s.gate.inFlight = some f → inState s f.bag .inducting = true
  entryMeas : ∀ m, s.gate.entryMeas = some m → placed s m.bag = true
  loopMeas : ∀ x ∈ s.loopMeas, ∀ m, x.2 = some m → placed s m.bag = true
  queueIndex : ∀ x ∈ s.queues, x.1 < 32
  queues : ∀ c < 32, QueueOrderly s c
  chuteIndex : ∀ x ∈ s.chutes, x.1 < 32
  unknown : ∀ x ∈ s.chutes, ∀ r, x.2 = some r → r.cage.unknown ≤ 255
  history : ∀ h ∈ s.closedCages, h.unknown ≤ 255
  strays : StraysOrderly s.strays
  clean : s.tracker.clean < 8
  position : if s.tracker.cfg.isSome then s.tracker.pos < loopLen s else s.tracker.pos = 0
  nodes : ∀ x ∈ s.nodes, x.1 < 64 ∧ ∀ e, x.2 = some e → NodeOk s.line.nodeAddr e
  entries : NodesDistinct s.nodes

/-- R72: no UNREAD bag, and no bag with a SORT target, has a recirculation count above the loaded limit. -/
def WithinLimit (s : State) : Prop :=
  ∀ x ∈ liveBags s, x.2.state = .unread ∨ isSort x.2.target = true →
    ∀ c, s.tracker.cfg = some c → x.2.recirc ≤ c.recircLimit

/-! ### Ownership (R83) -/

/-- What the part owns: the codes of the live records and of the KEYED stray entries, each with its sailing. -/
def ownedCodes (s : State) : List Owned :=
  (liveBags s).filterMap (·.2.owned) ++ s.strays.entries.filterMap (·.keyed)

/-- A bank's records within its count have cabin numbers 1 to 65534 in increasing order, and the bank's code is 1 to
254. -/
structure BankOrdered (b : Bank) : Prop where
  rising : ∀ p ∈ List.range (b.count - 1), (cabinAt b p).number < (cabinAt b (p + 1)).number
  numbers : ∀ p ∈ List.range b.count, 1 ≤ (cabinAt b p).number ∧ (cabinAt b p).number ≤ 65534
  code : 0 < b.count → 1 ≤ b.code ∧ b.code ≤ 254

/-- Every record a bank lists, within its count or not, has a cabin number 1 to 65534: a blank position is not listed, and a
CABIN section writes no other number (R80, R85). -/
def BankNumbered (b : Bank) : Prop := ∀ x ∈ b.recs, 1 ≤ x.2.number ∧ x.2.number ≤ 65534

/-- Where a walk stands (R89, R90): it carries while the two banks' codes are equal, its cursor is the number of the last
record stepped, and each record stepped either carries the tally its cabin has in the ACTIVE bank or is fresh, with nothing
loaded and, in a carrying walk, no such cabin in the ACTIVE bank. -/
structure WalkOrdered (g : Sailing) (w : Walk) : Prop where
  staging : BankOrdered g.staging
  next : w.next ≤ g.staging.count
  carrying : w.carrying = decide (g.active.code = g.staging.code)
  cursor : w.cursor = if w.next = 0 then none else some (cabinAt g.staging (w.next - 1)).number
  fresh : ∀ p ∈ w.fresh, p < w.next
  stepped : ∀ p ∈ List.range w.next,
    let r := cabinAt g.staging p
    if p ∈ w.fresh then r.loaded = 0 ∧ (w.carrying = true → bankFind g.active r.number = none)
    else w.carrying = true ∧
      (bankFind g.active r.number).map (fun x => (x.2.seen, x.2.loaded)) = some (r.seen, r.loaded)

/-- R83 for a sailing: in every record of the ACTIVE bank a serial 1 to 15 is seen exactly when it is loaded or its tag
code has an owner, and a loaded serial has none. The owner holds the code with this sailing's index (R92), and the seen set
is the one that lookups read (R102). Both banks' records have the cabin numbers that a CABIN section writes (R85). -/
structure SailingTallied (s : State) (i : Nat) : Prop where
  active : BankOrdered (sailingAt s i).active
  activeNumbers : BankNumbered (sailingAt s i).active
  stagingNumbers : BankNumbered (sailingAt s i).staging
  seen : ∀ x ∈ (sailingAt s i).active.recs, x.1 < (sailingAt s i).active.count → ∀ k ∈ List.range' 1 15,
    hasSerial (seenNow s i x) k =
        (hasSerial x.2.loaded k || hasOwner s i (makeCode (sailingAt s i).active.code x.2.number k)) ∧
      (hasSerial x.2.loaded k = true → hasOwner s i (makeCode (sailingAt s i).active.code x.2.number k) = false)
  walk : ∀ w, (sailingAt s i).walk = some w → WalkOrdered (sailingAt s i) w

/-- R83 for the part: both sailings, every owned code well-formed, no code owned twice under one sailing, and nothing
owned and nothing walking while a RESTART is in flight. -/
structure Tallied (s : State) : Prop where
  sailing0 : SailingTallied s 0
  sailing1 : SailingTallied s 1
  codes : ∀ o ∈ ownedCodes s, wellFormedCode o.code = true ∧ o.sailing < 2
  once : ((ownedCodes s).map fun o => (o.code, o.sailing)).Nodup
  restart : s.mgmt.restart.isSome = true → ownedCodes s = [] ∧ s.sailing0.walk = none ∧ s.sailing1.walk = none

end Sys2Proof.Machine
end

