-- ==== Sys2Proof/WellFormed.lean ====
section
/-! DEFINITION. Which commands are well formed: operands within the ranges the manual gives the frame field,
the request or the collection they name. -/

namespace Sys2Proof

/-- A field node's address: 1 to 126 (section 1.1; node 0 is the terminal controller). -/
def fieldSource (src : Byte) : Bool := decide (1 ≤ src.toNat) && decide (src.toNat ≤ 126)

/-- A request that R193 or R196 answers BAD_KIND: its kind is outside 1 to 14, or it is a QUERY whose query
kind is outside 1 to 7. -/
def badKind (kind : Byte) (args : List Byte) : Bool :=
  decide (kind.toNat = 0) || decide (14 < kind.toNat) ||
    (decide (kind.toNat = 12) &&
      match args with
      | [] => false
      | q :: _ => decide (q.toNat = 0) || decide (7 < q.toNat))

/-- The well-formedness check of a command. -/
def Instr.wf : Instr → Bool
  | .powerOnReset _ => true
  | .frameReceive _ => true
  | .track src _ _ => fieldSource src
  | .eye src idx _ _ => fieldSource src && decide (idx.toNat ≤ 3)
  | .scan src _ codes => fieldSource src && decide (codes.length ≤ 4)
  | .induct src idx => fieldSource src && decide (idx.toNat ≤ 3)
  | .keyinCode src _ _ => fieldSource src
  | .keyinReject src _ => fieldSource src
  | .hold src _ => fieldSource src
  | .release src _ => fieldSource src
  | .cagePresent src _ => fieldSource src
  | .cageFullOn src => fieldSource src
  | .cageFullOff src => fieldSource src
  | .cageRemoved src => fieldSource src
  | .driveReady src => fieldSource src
  | .driveFault src => fieldSource src
  | .reqBadKind _ kind args => badKind kind args && decide (args.length ≤ 58)
  | .load _ args => decide (args.length ≤ 58)
  | .commit _ _ _ => true
  | .discard _ _ => true
  | .erase _ _ => true
  | .closeDeck _ _ _ => true
  | .reopenDeck _ _ _ => true
  | .closeSailing _ _ _ => true
  | .openSailing _ _ _ => true
  | .lock _ _ => true
  | .pin _ _ _ => true
  | .unpin _ _ => true
  | .playerOff _ _ _ => true
  | .playerAuto _ _ _ => true
  | .playerDirect _ _ _ => true
  | .sortHold _ => true
  | .sortRelease _ => true
  | .queryCabin _ _ _ _ => true
  | .queryBag _ _ => true
  | .queryChute _ _ => true
  | .queryCage _ _ _ _ => true
  | .queryStray _ _ => true
  | .queryHold _ _ => true
  | .querySailing _ _ => true
  | .snapshot _ => true
  | .restart _ => true
  | .transmitComplete => true
  | .silenceTimerExpiry => true
  | .runIdleTimerExpiry => true
  | .slowIdleTimerExpiry => true
  | .inductTimeout => true
  | .entryOversize => true
  | .loopEyeLengthReached k => decide (1 ≤ k) && decide (k ≤ 7)
  | .missedDivert b => decide (b < 512)
  | .windowHoldEnd p => decide (p < 40)
  | .rampTimerExpiry p => decide (p < 40)
  | .timeHoldExpiry p => decide (p < 40)
  | .triggerTimeout p => decide (p < 40)
  | .commitStep i => decide (i < 2)
  | .commitSwap i => decide (i < 2)
  | .restartSweepStep => true
  | .restartComplete => true
  | .resetnLow => true

end Sys2Proof
end

