-- ==== Sys2Proof/Certificates/Slice0/Obligations.lean ====
section
/-! DEFINITION. The statements for the provers. Each is a Prop; the docstring says which rule of spec/ it formalises. -/

open Sys2Proof Sys2Proof.Machine

/-! ### The step, and the resets -/

/-- One step takes the command at the front of the queue and executes it on the state with the queue's rest; with
nothing waiting the part idles (log 2). -/
def Obligations.StepRunsFrontCommand : Prop :=
  (∀ (s : State) (c : Instr) (cs : List Instr), s.pending = c :: cs → step s = exec c { s with pending := cs }) ∧
  ∀ s : State, s.pending = [] → step s = .next s

/-- POWER_ON_RESET samples the straps and leaves every block at its power-on values (R201 with R1, R9, R12, R13, R16, R23,
R57, R76, R80, R114, R143, R178, R190), from every state; only the model's own queue and choice count are kept. RESETN_LOW
cuts short the frame on LINE OUT and loses unsent replies, unsent reports and executing requests (R201, R1); the rest stands
until power-on, and until then no command but POWER_ON_RESET has an effect (the model's reading of R1 and R201: log 9). -/
def Obligations.ResetCommandsSetTheirValues : Prop :=
  (∀ (s : State) (straps : BitVec 7), ∃ t, exec (.powerOnReset straps) s = .next t ∧
      t.pending = s.pending ∧ t.choices = s.choices ∧ t.resetLow = false ∧
      t.line = { nodeAddr := straps.toNat, transit := [], control := [], slots := [], readyOrder := [], runCount := 0,
                 controlOverrun := false, sending := none } ∧
      t.nodes = [] ∧
      t.tracker = { cfg := none, pos := 0, debt := 0, speed := 0, expected := none, history := [], state := .notReady,
                    clean := 0, silence := false } ∧
      t.gate = { slots := [], pointer := 0, inFlight := none, entryMeas := none, speed := .standby, runTimer := none,
                 slowTimer := none, drive := .unknown } ∧
      t.bags = [] ∧ t.loopMeas = [] ∧ t.sailing0 = emptySailing ∧ t.sailing1 = emptySailing ∧ t.holds = [] ∧
      t.chutes = [] ∧ t.closedCages = [] ∧ t.queues = [] ∧ t.players = { profiles := [], players := [], lines := [] } ∧
      t.strays = { entries := [], keyedOrder := [], nextSlot := 0 } ∧
      t.mgmt = { reports := [], counters := zeroCounters, sortHold := false, reportLost := false, restart := none }) ∧
  (∀ s : State, exec .resetnLow s = .next
    { s with
      resetLow := true,
      line := { s.line with sending := none, slots := [], readyOrder := [] },
      mgmt := { s.mgmt with reports := [] } }) ∧
  ∀ (s : State) (c : Instr), s.resetLow = true → c ≠ .resetnLow → (∀ straps, c ≠ .powerOnReset straps) →
    exec c s = .next s

/-- At State.reset, and after a power-on reset at any straps, the tables are in canonical form, the bounds and the
reservations stand, the reply slots agree with their order, the records, queues and lists are in order, no bag is past the
recirculation limit, and the tallies agree with the owners. -/
def Obligations.ResetMeetsInvariants : Prop :=
  ∀ s : State, s = State.reset ∨ (∃ a : Nat, s = powerOn a) →
    TablesWf s ∧ Bounded s ∧ Reserved s ∧ SlotsAgree s ∧ Orderly s ∧ WithinLimit s ∧ Tallied s

/-- Every step keeps the transit and control queues, the transit run count, the report queue, the counters, the hold list,
the closed cage history, and the tracker's debt, speed estimate and history within the bounds the manual gives them
(R4, R12, R16, R198, R197, R114, R142, R28, R31, R30). The bag records, the fire queues, the cages' unknown counts, the stray
list, the clean run count and P are bounded by EveryStepKeepsRecordsAndQueues. -/
def Obligations.EveryStepKeepsBounds : Prop :=
  ∀ s t : State, Bounded s → step s = .next t → Bounded t

/-- Every step keeps the tables' canonical form and the reservations of R125: no fire queue above three bags, no cage's
known and committed counts above the capacity, no stray list beyond its reserved room. -/
def Obligations.EveryStepKeepsReservations : Prop :=
  ∀ s t : State, TablesWf s → Reserved s → step s = .next t → TablesWf t ∧ Reserved t

/-- Every step keeps the reply slots: READY exactly those in the sending order, each once, four at most (R13). -/
def Obligations.EveryStepKeepsReplySlots : Prop :=
  ∀ s t : State, TablesWf s → SlotsAgree s → step s = .next t → SlotsAgree t

/-- Every step keeps the live records, the fire queues, the stray list, what refers to them and the Node Table in order (sections
1.4, 4.1, 8.2, 10.1, 10.3): a record's fields as its state has them, its recirculation count at most 15 and its misses at most 1; every ARMED or
DIVERTING bag in exactly one fire queue, its chute's, each queue in increasing F with firing ranks for its DIVERTING bags
(R150, R154); no bag ARMED in BLIND or under the sort hold; the keyed order made of the KEYED entries; a cage's unknown count
at most 255, the clean run count below 8, and P below L; the Node Table's entries within R10, none sharing what R10 keeps
single. -/
def Obligations.EveryStepKeepsRecordsAndQueues : Prop :=
  ∀ s t : State, TablesWf s → Reserved s → Orderly s → step s = .next t → Orderly t

/-- Every step keeps R72: no UNREAD bag, nor any bag with a SORT target, has a recirculation count above the loaded
recirculation limit. -/
def Obligations.EveryStepKeepsRecirculationLimit : Prop :=
  ∀ s t : State, TablesWf s → Reserved s → Orderly s → WithinLimit s → step s = .next t → WithinLimit t

/-- Every step keeps R83: for every cabin in each sailing's ACTIVE bank and every serial 1 to 15, the serial is seen exactly
when it is loaded or its tag code has an owner, a loaded serial has no owner, and no code has two. The owner is a live record
or a KEYED entry that holds the code with that sailing's index (R92), and the seen set is the one that lookups read while a
RESTART sweeps (R102). Kept with it are the order of the ACTIVE banks and of a walk's STAGING bank (R88), the cabin numbers 1 to
65534 of every record listed in either bank (R85), and what a walk has carried so far (R89, R90). -/
def Obligations.EveryStepKeepsOwnership : Prop :=
  ∀ s t : State, TablesWf s → Reserved s → Orderly s → Tallied s → step s = .next t → Tallied t

/-! ### The sort line: frames -/

/-- A tag code is well-formed exactly when it is the code made of a sailing code 1 to 254, a cabin number 1 to 65534 and
a serial 1 to 15 (R17). Reading back a frame gives its header fields and payload, and what is read as a frame is that frame's
bytes (R2); each field message is read back from its payload, and only a payload of its kind's length says anything (section
1.8, R6). -/
def Obligations.CodesFramesAndPayloadsReadBack : Prop :=
  (∀ c : TagCode, wellFormedCode c = true ↔
    ∃ g n k : Nat, 1 ≤ g ∧ g ≤ 254 ∧ 1 ≤ n ∧ n ≤ 65534 ∧ 1 ≤ k ∧ k ≤ 15 ∧ c = makeCode g n k) ∧
  (∀ f : RawFrame, f.dest < 256 → f.src < 256 → f.kind < 256 → f.payload.length ≤ 60 → parseFrame (frameBytes f) = some f) ∧
  (∀ (bytes : List Byte) (f : RawFrame), parseFrame bytes = some f →
    frameBytes f = bytes ∧ f.dest < 256 ∧ f.src < 256 ∧ f.kind < 256 ∧ f.payload.length ≤ 60) ∧
  (∀ m : FieldMsg,
    (match m with
      | .track q d => q < 256 ∧ -32768 ≤ d ∧ d ≤ 32767
      | .eye i _ q => i < 256 ∧ q < 256
      | .scan q cs => q < 256 ∧ cs.length ≤ 4
      | .induct i => i < 256
      | .keyin _ _ => True
      | .hold _ _ => True
      | .cage (.present i) => i < 65536
      | .cage _ => True
      | .drive _ => True) →
    parseField (fieldKindOf m) (fieldPayload m) = some m) ∧
  ∀ (k : FieldKind) (p : List Byte) (m : FieldMsg), parseField k p = some m →
    fieldKindOf m = k ∧ p.length ∈ fieldLengths k ∧ (k ≠ .keyin → k ≠ .cage → p = fieldPayload m)

/-- A well-formed field or request command is what its frame, addressed to the part, does when it is received: the
frame passes the check and the receive decision, and reaches the block of that command with every operand. That a field or
request row is the received frame's event from the consumed frame onward is the model's choice (log 8). -/
def Obligations.ReceivedFrameActsAsCommand : Prop :=
  ∀ (s : State) (c : Instr) (f : RawFrame), c.wf = true → commandFrame s.line.nodeAddr c = some f → onLine s = true →
    exec (.frameReceive (frameBytes f)) s = exec c s

/-- An on-line part drops a bad frame and counts a line error (R2); the four conditions of R2 are what makes it bad. -/
def Obligations.BadFrameCounted : Prop :=
  ∀ (s : State) (bytes : List Byte), Running s →
    (bytes.length < 6 ∨ 60 < (bytes.getD 3 0).toNat ∨ bytes.length ≠ 6 + (bytes.getD 3 0).toNat ∨
      be16 (crc16 (bytes.take (4 + (bytes.getD 3 0).toNat))).toNat ≠ bytes.drop (4 + (bytes.getD 3 0).toNat)) →
    Gives (exec (.frameReceive bytes) s) (bump .lineErrors s)

/-- The receive decision of R3 on a good frame at an on-line part: its own address as the source strips it; a frame for
another node, or a broadcast REQ of node 0, is forwarded only; a broadcast field frame is forwarded, and then taken as if
it had been addressed to the part, whether or not its forwarded copy found room. What is consumed from node 0 and is no REQ
counts as an unknown source, a REQ without tag and kind as a line error, and a REQ from any other node as an unknown source
(R5). -/
def Obligations.ReceiveDecision : Prop :=
  ∀ (s : State) (bytes : List Byte) (f : RawFrame), Running s → parseFrame bytes = some f →
    (f.src = s.line.nodeAddr → Gives (exec (.frameReceive bytes) s) s) ∧
    (f.src ≠ s.line.nodeAddr → f.dest ≠ s.line.nodeAddr → f.dest ≠ 127 →
      Gives (exec (.frameReceive bytes) s) (withForwarded bytes s)) ∧
    (f.src = 0 → f.kind = 0x30 → f.dest = 127 → Gives (exec (.frameReceive bytes) s) (withForwarded bytes s)) ∧
    (f.src ≠ s.line.nodeAddr → f.src ≠ 0 → f.dest = 127 →
      exec (.frameReceive bytes) s =
        exec (.frameReceive (frameBytes { f with dest := s.line.nodeAddr })) (withForwarded bytes s)) ∧
    (f.src = 0 → f.kind ≠ 0x30 → f.dest = s.line.nodeAddr →
      Gives (exec (.frameReceive bytes) s) (bump .unknownSources s)) ∧
    (f.src = 0 → f.kind ≠ 0x30 → f.dest = 127 →
      Gives (exec (.frameReceive bytes) s) (bump .unknownSources (withForwarded bytes s))) ∧
    (f.src = 0 → f.kind = 0x30 → f.dest = s.line.nodeAddr → f.payload.length < 2 →
      Gives (exec (.frameReceive bytes) s) (bump .lineErrors s)) ∧
    (f.src ≠ 0 → f.src ≠ s.line.nodeAddr → f.kind = 0x30 → f.dest = s.line.nodeAddr → s.mgmt.restart = none →
      Gives (exec (.frameReceive bytes) s) (bump .unknownSources s))

/-- The four tests of R6 on a field frame addressed to the part, and what a failure of each counts. An EYE or INDUCT frame
whose local index is 4 or more maps nothing, and counts as an unknown source: the model's reading (log 19). -/
def Obligations.AttributionTests : Prop :=
  ∀ (s : State) (bytes : List Byte) (f : RawFrame), Running s → parseFrame bytes = some f →
    f.src ≠ 0 → f.src ≠ s.line.nodeAddr → f.dest = s.line.nodeAddr → s.mgmt.restart = none →
    (entryAt s f.src = none → Gives (exec (.frameReceive bytes) s) (bump .unknownSources s)) ∧
    ∀ e : NodeEntry, entryAt s f.src = some e →
      (f.kind ∉ roleCodes e.role → Gives (exec (.frameReceive bytes) s) (bump .unknownSources s)) ∧
      ∀ k : FieldKind, fieldKindCode k = f.kind → f.kind ∈ roleCodes e.role →
        (parseField k f.payload = none → Gives (exec (.frameReceive bytes) s) (bump .lineErrors s)) ∧
        (∀ ids i edge q, e.role = .eye ids → parseField k f.payload = some (.eye i edge q) → (ids[i]?).join = none →
          Gives (exec (.frameReceive bytes) s) (bump .unknownSources s)) ∧
        (∀ ids i, e.role = .station ids → parseField k f.payload = some (.induct i) → (ids[i]?).join = none →
          Gives (exec (.frameReceive bytes) s) (bump .unknownSources s)) ∧
        (∀ ids n c, e.role = .station ids → parseField k f.payload = some (.keyin n c) →
          (∀ d : StationId, some d ∈ ids → d.type = .normal) →
          Gives (exec (.frameReceive bytes) s) (bump .unknownSources s))

/-- While a RESTART is in flight a field frame is discarded uncounted (R8) and a request that claims a slot is answered
BUSY and does nothing (R8, R193). An off-line part (address 0 or 127) repeats every frame through the transit queue unchecked,
drops one that finds it full uncounted, and receives no field frame and no request (R1). -/
def Obligations.RestartAndOfflineTurnAway : Prop :=
  (∀ (s : State) (c : Instr), Running s → s.mgmt.restart.isSome = true →
      (∀ src m, fieldOf c = some (src, m) → src.toNat ≠ 0 → Gives (exec c s) s) ∧
      ∀ tag kind args k, requestOf c = some (tag :: kind :: args) → freeSlot s.line = some k →
        Gives (exec c s) (withReply k tag kind .busy [] s)) ∧
  ∀ s : State, s.resetLow = false → s.line.nodeAddr = 0 ∨ s.line.nodeAddr = 127 →
    (∀ bytes : List Byte, Gives (exec (.frameReceive bytes) s)
      (if s.line.transit.length < 32 then { s with line := { s.line with transit := s.line.transit ++ [bytes] } } else s)) ∧
    ∀ c : Instr, (fieldOf c).isSome = true ∨ (requestOf c).isSome = true → Gives (exec c s) s

/-- A request that finds no reply slot FREE is refused through the transit queue: BUSY, tag and kind echoed, the status
summary as it stands, no results; it does nothing else (R14). -/
def Obligations.OverflowRefusal : Prop :=
  ∀ (s : State) (c : Instr) (tag kind : Byte) (args : List Byte), Running s →
    requestOf c = some (tag :: kind :: args) → freeSlot s.line = none →
    Gives (exec c s) (withForwarded
      (frameBytes { dest := 0, src := s.line.nodeAddr, kind := 0x31, payload := [tag, kind, 1, statusSummary s] }) s)

/-- When the last byte of a frame has been sent it leaves its queue, or its reply slot becomes FREE (R11, R13); with LINE
OUT idle the row does nothing of its own (the model's convention, log 37). Whenever LINE OUT becomes or stands idle, the arbiter
chooses among all that waits at the end of the event (log 10): control, then transit while no management traffic waits or the
run count is below 8, then the earliest-READY reply, then the head of the report queue, and it leaves the run count of R16
(R15, R16). So it chooses on what the completed frame leaves behind, and an event at an idle LINE OUT is followed by the
sending of what it queued. -/
def Obligations.TransmitCompleteFreesAndChooses : Prop :=
  (∀ s : State, s.resetLow = false →
      (s.line.sending = none → Gives (exec .transmitComplete s) s) ∧
      (∀ bs, s.line.sending = some { source := .control, bytes := bs } →
        Gives (exec .transmitComplete s) { s with line := { s.line with control := s.line.control.tail } }) ∧
      (∀ bs, s.line.sending = some { source := .transit, bytes := bs } →
        Gives (exec .transmitComplete s) { s with line := { s.line with transit := s.line.transit.tail } }) ∧
      (∀ i bs, s.line.sending = some { source := .reply i, bytes := bs } →
        Gives (exec .transmitComplete s) { s with line :=
          { s.line with slots := tablePut .free s.line.slots i .free, readyOrder := s.line.readyOrder.filter (· ≠ i) } }) ∧
      (∀ bs, s.line.sending = some { source := .report, bytes := bs } →
        Gives (exec .transmitComplete s) { s with mgmt := { s.mgmt with reports := s.mgmt.reports.tail } })) ∧
  ∀ (s t : State) (c : Instr), s.resetLow = false → exec c s = .next t → (∀ straps, c ≠ .powerOnReset straps) →
    c ≠ .resetnLow → s.line.sending = none ∨ c = .transmitComplete →
    let waiting : Prop := t.line.readyOrder ≠ [] ∨ t.mgmt.reports ≠ []
    let sends := fun (x : TxSource) (bytes : List Byte) (run : Nat) =>
      t.line.sending = some { source := x, bytes := bytes } ∧ t.line.runCount = run
    (∀ f fs, t.line.control = f :: fs → sends .control (ctrlBytes t.line.nodeAddr f) s.line.runCount) ∧
    (∀ x xs, t.line.control = [] → t.line.transit = x :: xs → ¬waiting → sends .transit x 0) ∧
    (∀ x xs, t.line.control = [] → t.line.transit = x :: xs → waiting → s.line.runCount < 8 →
      sends .transit x (s.line.runCount + 1)) ∧
    (∀ i is r, t.line.control = [] → t.line.transit = [] ∨ 8 ≤ s.line.runCount → t.line.readyOrder = i :: is →
      tableGet Slot.free t.line.slots i = .ready r → sends (.reply i) (replyBytes t.line.nodeAddr r) 0) ∧
    (∀ r rs, t.line.control = [] → t.line.transit = [] ∨ 8 ≤ s.line.runCount → t.line.readyOrder = [] →
      t.mgmt.reports = r :: rs → sends .report (reportBytes t.line.nodeAddr r) 0) ∧
    (t.line.control = [] → t.line.transit = [] → ¬waiting →
      t.line.sending = none ∧ t.line.runCount = s.line.runCount)

/-- A frame begun on LINE OUT is sent whole: no command but its completion and the resets takes it off; and no command
leaves LINE OUT idle with a frame waiting (R11, R15). -/
def Obligations.LineOutSendsWholeAndNeverRests : Prop :=
  (∀ (s t : State) (c : Instr) (x : Sending), exec c s = .next t → c ≠ .transmitComplete → c ≠ .resetnLow →
    (∀ straps, c ≠ .powerOnReset straps) → s.line.sending = some x → t.line.sending = some x) ∧
  ∀ (s t : State) (c : Instr), exec c s = .next t → t.resetLow = false → t.line.sending = none →
    t.line.control = [] ∧ t.line.transit = [] ∧ t.line.readyOrder = [] ∧ t.mgmt.reports = []

/-! ### Loop tracking -/

/-- TRACK's effect on the tracker is the tracker's own course (R24 to R35): it depends on the tracker and the frame alone,
whatever stands on the belt. And TRACK leaves the queue of commands, the Node Table, the hold list, the transit queue,
the reply slots, the node address, the sort hold and a RESTART's place as they were. -/
def Obligations.TrackFollowsTrackersCourse : Prop :=
  ∀ (s : State) (src q : Byte) (d : BitVec 16), Attributed s src .encoder → ∃ t, exec (.track src q d) s = .next t ∧
    t.tracker = s.tracker.after q.toNat d.toInt ∧
    t.pending = s.pending ∧ t.resetLow = s.resetLow ∧ t.nodes = s.nodes ∧ t.holds = s.holds ∧
    t.line.transit = s.line.transit ∧ t.line.slots = s.line.slots ∧ t.line.readyOrder = s.line.readyOrder ∧
    t.line.nodeAddr = s.line.nodeAddr ∧ t.mgmt.sortHold = s.mgmt.sortHold ∧ t.mgmt.restart = s.mgmt.restart

/-- TRACK with nothing on the belt: without a configuration it is discarded uncounted; the first one in NOT_READY enters
TRACKING with a TRACK report, whatever its sequence (R32); later an old frame is counted stale, and any other changes the
tracker alone, counts a clamp above 1023 (R27) and reports a change of track state (R34, R35). -/
def Obligations.TrackOnClearBelt : Prop :=
  ∀ (s : State) (src q : Byte) (d : BitVec 16), Attributed s src .encoder → BeltClear s →
    (s.tracker.cfg = none → Gives (exec (.track src q d) s) s) ∧
    ∀ c, s.tracker.cfg = some c →
      let t := s.tracker.after q.toNat d.toInt
      let u := if 1023 < d.toInt then bump .overspeed { s with tracker := t } else { s with tracker := t }
      (s.tracker.state = .notReady → t.state = .tracking → 
        Gives (exec (.track src q d) s) (withReport (.track false) u)) ∧
      (s.tracker.state = .notReady → 0 ≤ d.toInt → t.state = .tracking ∧ t.silence = true ∧ t.clean = 0 ∧
        t.expected = some ((q.toNat + 1) % 256)) ∧
      ∀ e, s.tracker.state ≠ .notReady → s.tracker.expected = some e → e < 256 →
        (128 ≤ (q.toNat + 256 - e) % 256 → Gives (exec (.track src q d) s) (bump .stale s)) ∧
        ((q.toNat + 256 - e) % 256 < 128 →
          Gives (exec (.track src q d) s)
            (if t.state = s.tracker.state then u else withReport (.track (decide (t.state = .blind))) u))

/-- An advance that brings no bag to its lap mark, its expected eye's end, its fire point or its deadline moves every
leading edge by its counts and changes nothing else beside the tracker (R29, R62). -/
def Obligations.AdvanceMovesEveryEdge : Prop :=
  ∀ (s : State) (src q : Byte) (d : BitVec 16) (c : LoopCfg), Attributed s src .encoder → TablesWf s →
    s.tracker.cfg = some c → s.tracker.state = .tracking → s.tracker.expected = some q.toNat → s.tracker.debt = 0 →
    1 ≤ d.toInt → d.toInt ≤ 1023 →
    s.loopMeas = [] → s.gate.inFlight = none → s.gate.entryMeas = none → windowPlayers s = [] → s.gate.slots = [] →
    (∀ i b e, (i, some b) ∈ s.bags → b.edge = some e →
      e + d.toInt.toNat < c.len ∧ b.state ≠ .diverting ∧
      (∀ v, b.divert = some v → e + d.toInt.toNat < v.fire) ∧
      (∀ k p, b.expEye = some { eye := k, lap := .this } → eyePos c k = some p →
        e + d.toInt.toNat ≤ p + tolerance c b.uncertain)) →
    Gives (exec (.track src q d) s)
      { s with
        tracker := s.tracker.after q.toNat d.toInt
        bags := s.bags.map fun (i, o) => (i, o.map fun b => { b with edge := b.edge.map (· + d.toInt.toNat) }) }

/-- An UNREAD bag passing the lap mark counts the lap; past the recirculation limit it becomes ROUTED to STRAY(NO_READ) (R71),
here with no chute available. An UNREAD bag carried past the end of its expected eye's window takes a miss, and at the second in a
row is freed LOST: reported with its edge, counted, its index free (R69, R70, R73). The bag is alone on the belt. -/
def Obligations.LapMarksAndMisses : Prop :=
  (∀ (s : State) (src q : Byte) (d : BitVec 16) (c : LoopCfg) (i : Nat) (b : Bag) (e k : Nat),
      Attributed s src .encoder → s.tracker.cfg = some c → s.tracker.state = .tracking →
      s.tracker.expected = some q.toNat → s.tracker.debt = 0 → 1 ≤ d.toInt → d.toInt ≤ 1023 →
      s.loopMeas = [] → s.gate.inFlight = none → s.gate.entryMeas = none → windowPlayers s = [] → s.gate.slots = [] →
      NoneAvailable s → s.bags = [(i, some b)] → b.state = .unread → b.edge = some e → b.divert = none →
      b.expEye = some { eye := k, lap := .next } → e < c.len → c.len ≤ e + d.toInt.toNat → 2048 ≤ c.len →
      (∀ p, eyePos c k = some p → e + d.toInt.toNat ≤ c.len + p) →
      let n := min 15 (b.recirc + 1)
      let moved := { b with edge := some (e + d.toInt.toNat - c.len), expEye := some { eye := k, lap := .this }, recirc := n }
      Gives (exec (.track src q d) s)
        { s with
          tracker := s.tracker.after q.toNat d.toInt
          bags := [(i, some (if n ≤ c.recircLimit then moved
            else { moved with state := .routed, target := some (.stray .noRead) }))] }) ∧
  ∀ (s : State) (src q : Byte) (d : BitVec 16) (c : LoopCfg) (i : Nat) (b : Bag) (e k p : Nat),
    Attributed s src .encoder → s.tracker.cfg = some c → s.tracker.state = .tracking →
    s.tracker.expected = some q.toNat → s.tracker.debt = 0 → 1 ≤ d.toInt → d.toInt ≤ 1023 →
    s.loopMeas = [] → s.gate.inFlight = none → s.gate.entryMeas = none → windowPlayers s = [] → s.gate.slots = [] →
    s.bags = [(i, some b)] → b.state = .unread → b.edge = some e → b.owned = none → b.divert = none →
    b.expEye = some { eye := k, lap := .this } → eyePos c k = some p → e + d.toInt.toNat < c.len →
    p + tolerance c b.uncertain < e + d.toInt.toNat →
    let e1 := e + d.toInt.toNat
    let moved : State := { s with tracker := s.tracker.after q.toNat d.toInt }
    (b.misses = 0 → placeEye c (k + 1) e1 (tolerance c b.uncertain) = firstEye c .next →
      Gives (exec (.track src q d) s)
        { moved with bags := [(i, some { b with edge := some e1, misses := 1, expEye := firstEye c .next })] }) ∧
    (b.misses = 1 → s.gate.speed = .run → s.gate.runTimer = none →
      Gives (exec (.track src q d) s)
        (bump .lost (withReport (.lost { index := i, owned := none, target := b.target, recirc := b.recirc } e1)
          { moved with bags := [], gate := { s.gate with runTimer := some c.runIdle } })))

/-- An advance that carries the one ARMED bag on the belt to its fire position fires the one loaded chute's players, the takeaway
first (R152, R153, R174, R175). A diverter in AUTO that is IDLE plays: segment 0 starts with its LEVEL frame. One in the HOLD of a
WINDOW segment within its open length and margin merges the fire without a frame, the advance or the fire taken first (log 3).
One that plays otherwise keeps the fire pending. In each case the bag becomes DIVERTING with firing rank 1, a count deadline
less the overshoot. A diverter that refuses, its profile empty or a fire already pending, leaves the bag missed at once: out of
the queue, ROUTED, counted (R157), here with no chute ahead of it. Neither player of a takeaway pair changes the other's answer. -/
def Obligations.AdvanceFiresArmedBag : Prop :=
  ∀ (s : State) (src q : Byte) (d : BitVec 16) (c : LoopCfg) (i e n : Nat) (b : Bag) (v : Divert) (r : Chute),
    Attributed s src .encoder → s.tracker.cfg = some c → s.tracker.state = .tracking →
    s.tracker.expected = some q.toNat → s.tracker.debt = 0 → 1 ≤ d.toInt → d.toInt ≤ 1023 →
    s.loopMeas = [] → s.gate.inFlight = none → s.gate.entryMeas = none → s.gate.slots = [] →
    s.bags = [(i, some b)] → b.state = .armed → b.edge = some e → b.expEye = none → b.divert = some v →
    s.chutes = [(v.chute, some r)] → s.queues = [(v.chute, [{ bag := i, rank := none }])] →
    e < v.fire → v.fire ≤ e + d.toInt.toNat → e + d.toInt.toNat < c.len →
    (∀ p, v.deadline = .position p → e + d.toInt.toNat < p) →
    (∀ m, v.deadline = .count m → (e + d.toInt.toNat - v.fire : Int) < m) →
    r.diverter < 40 → (playerAt s r.diverter).node = some n →
    let a := d.toInt.toNat
    let p := playerAt s r.diverter
    let fire : Fire := { profile := r.profile, window := v.window, margin := r.margin }
    let put := fun (k : Nat) (x : Player) (t : State) =>
      { t with players := { t.players with players := tablePut resetPlayer t.players.players k x } }
    let deadline := match v.deadline with
      | .count m => Deadline.count (m - (e + a - v.fire : Nat))
      | x => x
    let diverting : State :=
      { s with
        tracker := s.tracker.after q.toNat d.toInt
        bags := [(i, some { b with state := .diverting, edge := some (e + a), divert := some { v with deadline := deadline } })]
        queues := [(v.chute, [{ bag := i, rank := some 1 }])] }
    let starts := fun (k m : Nat) (g : Segment) (t : State) =>
      withControl m (.level (playerAt s k).actuator g.level g.ramp)
        (put k { playerAt s k with play := some { fire := fire, seg := 0, phase := .ramp g.ramp } } t)
    (p.mode = .auto → ∀ g gs, profileAt s r.profile = g :: gs → 1 ≤ g.ramp → g.outs = 0 → s.players.lines = [] →
      (r.takeaway = none → windowPlayers s = [] →
        (p.play = none → Gives (exec (.track src q d) s) (starts r.diverter n g diverting)) ∧
        (p.play.isSome = true → p.pending = none →
          Gives (exec (.track src q d) s) (put r.diverter { p with pending := some fire } diverting))) ∧
      (∀ k m, r.takeaway = some k → k < 40 → k ≠ r.diverter → windowPlayers s = [] → p.play = none →
        (playerAt s k).node = some m → (playerAt s k).mode = .auto →
        ((playerAt s k).play = none →
          Gives (exec (.track src q d) s) (starts r.diverter n g (starts k m g diverting))) ∧
        ((playerAt s k).play.isSome = true → (playerAt s k).pending.isSome = true →
          Gives (exec (.track src q d) s) (starts r.diverter n g diverting))) ∧
      ∀ y m w o, r.takeaway = none → windowPlayers s = [r.diverter] → p.play = some y → y.phase = .window m w o →
        m + a < w → m + a ≤ o + y.fire.margin →
        ∃ w' ∈ [max w (m + v.window), max w (m + a + v.window)], Gives (exec (.track src q d) s)
          (put r.diverter { p with play := some { y with phase := .window (m + a) w' o } }
            { diverting with choices := s.choices + 1 })) ∧
    (r.takeaway = none → windowPlayers s = [] →
      profileAt s r.profile = [] ∨ (p.play.isSome = true ∧ p.pending.isSome = true) →
      firePos r.pos (b.len.getD 0) (leadOf s.tracker.speed r.leadTime) ≤ e + a →
      Gives (exec (.track src q d) s) (bump .missedDiverts
        { s with
          tracker := s.tracker.after q.toNat d.toInt
          bags := [(i, some { b with state := .routed, edge := some (e + a), divert := none })]
          queues := [] }))

/-- What an advance runs down and what it brings, within TRACK, whatever chutes are loaded and no request waiting: the induct
count, and at 0 the induction's end NO_SHOW (R48); the entry measurement, and at the maximum bag length the bag's OVERSIZE with
that length, no chute being available to take it (R52); a DIVERTING bag's count deadline, and at 0, or at a deadline that is a
position, the missed divert (R156, R157), after which the bag is ROUTED, or armed anew at a chute that is available and
reachable (the trial is made before V takes the sample; that the chute which missed it may be that chute is log 40); a loop eye's
measurement, closed at the maximum with the length unchanged (R68); and a WINDOW hold's count, and at its end the hold's, with
the next segment, the pending fire's play or none (R171, R175, R177). One bag moves at most, short of its lap mark and of the end
of its expected eye's window. -/
def Obligations.AdvanceRunsCountsDown : Prop :=
  ∀ (s : State) (src q : Byte) (d : BitVec 16) (c : LoopCfg),
    Attributed s src .encoder → s.tracker.cfg = some c → s.tracker.state = .tracking →
    s.tracker.expected = some q.toNat → s.tracker.debt = 0 → 1 ≤ d.toInt → d.toInt ≤ 1023 → s.gate.slots = [] →
    let a := d.toInt.toNat
    let gives := fun (t : State) =>
      Gives (exec (.track src q d) s) { t with tracker := s.tracker.after q.toNat d.toInt }
    let lone := fun (i : Nat) (b : Bag) => s.bags = [(i, some b)]
    let short := fun (b : Bag) (e : Nat) => b.edge = some e ∧ e + a < c.len ∧
      ∀ k p, b.expEye = some { eye := k, lap := .this } → eyePos c k = some p → e + a ≤ p + tolerance c b.uncertain
    let still : Prop := s.gate.inFlight = none ∧ windowPlayers s = []
    (∀ i b n, lone i b → b.state = .inducting → b.edge = none → b.owned = none → s.gate.inFlight = some { bag := i, remaining := n } →
      s.gate.entryMeas = none → s.loopMeas = [] → windowPlayers s = [] →
      (a < n → gives { s with gate := { s.gate with inFlight := some { bag := i, remaining := n - a } } }) ∧
      (n ≤ a → s.gate.speed = .run → s.gate.runTimer = none →
        gives (bump .noShows (withReport
          (.noShow { index := i, owned := none, target := b.target, recirc := b.recirc } b.station)
          { s with bags := [], gate := { s.gate with inFlight := none, runTimer := some c.runIdle } })))) ∧
    (∀ i b e m, lone i b → short b e → still → s.loopMeas = [] →
      s.gate.entryMeas = some { bag := i, m := m } → b.state = .unread ∨ b.state = .routed →
      (m + a < c.maxBag → gives { s with
        bags := [(i, some { b with edge := some (e + a) })]
        gate := { s.gate with entryMeas := some { bag := i, m := m + a } } }) ∧
      (c.maxBag ≤ m + a → NoneAvailable s → gives { s with
        bags := [(i, some { b with edge := some (e + a), len := some c.maxBag, oversize := true, state := .routed,
                                   target := some (.stray .oversize) })]
        gate := { s.gate with entryMeas := none } })) ∧
    (∀ i b e v, lone i b → short b e → still → s.loopMeas = [] → s.gate.entryMeas = none → b.state = .diverting →
      b.divert = some v → s.queues = [(v.chute, [{ bag := i, rank := some 1 }])] →
      let back := { b with edge := some (e + a), state := .routed, divert := none }
      let missed := bump .missedDiverts { s with bags := [(i, some back)], queues := [] }
      let reached : Prop := match v.deadline with
        | .count m => m ≤ a
        | .position p => e < p ∧ p ≤ e + a
      (∀ m, v.deadline = .count m → (a : Int) < m →
        gives { s with
          bags := [(i, some { b with edge := some (e + a), divert := some { v with deadline := .count (m - a) } })] }) ∧
      (∀ p, v.deadline = .position p → e + a < p → gives { s with bags := [(i, some { b with edge := some (e + a) })] }) ∧
      (reached → (∀ k r, chuteAt s k = some r → available missed k = true → reachable missed back r = false) → gives missed) ∧
      (reached → ∃ t b', exec (.track src q d) s = .next t ∧ bagAt t i = some b' ∧
        t.mgmt.counters = missed.mgmt.counters ∧ b'.edge = back.edge ∧ b'.owned = b.owned ∧ b'.recirc = b.recirc ∧
        ((b' = back ∧ t.queues = []) ∨
          (b'.state = .armed ∧ ∃ k r, chuteAt s k = some r ∧ available missed k = true ∧ reachable missed back r = true ∧
            t.queues = [(k, [{ bag := i, rank := none }])] ∧
            b'.divert = some (Divert.mk k (trialFire missed back r) (trialWindow back r)
              (deadlineOf c.len (trialFire missed back r) r.confirmDist)))))) ∧
    (∀ i b e k m, lone i b → short b e → still → s.gate.entryMeas = none →
      b.state = .unread ∨ b.state = .routed → s.loopMeas = [(k, some { bag := i, m := m })] →
      gives { s with
        bags := [(i, some { b with edge := some (e + a) })]
        loopMeas := if m + a < c.maxBag then [(k, some { bag := i, m := m + a })] else [] }) ∧
    ∀ p n y m w o bags, s.gate.inFlight = none → s.gate.entryMeas = none → s.loopMeas = [] →
      (s.bags = [] ∧ bags = [] ∨
        ∃ i b e, lone i b ∧ short b e ∧ bags = [(i, some { b with edge := some (e + a) })] ∧
          (b.state = .unread ∨ b.state = .routed ∨
            (b.state = .diverting ∧ ∃ v x, b.divert = some v ∧ v.deadline = .position x ∧ e + a < x))) →
      windowPlayers s = [p] → (playerAt s p).node = some n → (playerAt s p).play = some y → y.phase = .window m w o →
      let put := fun (x : Player) =>
        { s with bags := bags, players := { s.players with players := tablePut resetPlayer s.players.players p x } }
      let starts := fun (h : Segment) (x : Player) =>
        1 ≤ h.ramp → h.outs = 0 → gives (withControl n (.level (playerAt s p).actuator h.level h.ramp) (put x))
      (m + a < w → gives (put { playerAt s p with play := some { y with phase := .window (m + a) w o } })) ∧
      (w ≤ m + a → y.seg + 1 < (profileAt s y.fire.profile).length → ∀ h,
        (profileAt s y.fire.profile)[y.seg + 1]? = some h →
        starts h { playerAt s p with play := some { y with seg := y.seg + 1, phase := .ramp h.ramp } }) ∧
      (w ≤ m + a → (profileAt s y.fire.profile).length ≤ y.seg + 1 →
        ((playerAt s p).pending = none → gives (put { playerAt s p with play := none })) ∧
        ∀ f h hs, (playerAt s p).pending = some f → profileAt s f.profile = h :: hs → s.players.lines = [] →
          starts h { playerAt s p with play := some { fire := f, seg := 0, phase := .ramp h.ramp }, pending := none })

/-- A silence expiry in TRACKING enters BLIND: the tracker's state and clean run count change and nothing else of it, a
TRACK report BLIND is queued, every positioned bag is UNCERTAIN, every bag ARMED at a chute is ROUTED, no WINDOW hold stays open
(R33, R34, R63, R159, R177). With the records in order and no WINDOW hold open that is all: every record survives, a DIVERTING
bag keeps its divert, its entry and its rank, and no frame is sent; the LEVEL frames that ended WINDOW holds send are not said
here. In BLIND the expiry only sets the clean run count to 0 (R34), and while the timer is stopped it does nothing (the model's
choice, log 2). -/
def Obligations.SilenceEntersBlind : Prop :=
  ∀ s : State, s.resetLow = false →
    (s.tracker.silence = false → Gives (exec .silenceTimerExpiry s) s) ∧
    (s.tracker.silence = true → s.tracker.state = .blind →
      Gives (exec .silenceTimerExpiry s) { s with tracker := { s.tracker with clean := 0 } }) ∧
    (s.tracker.silence = true → s.tracker.state = .tracking → TablesWf s → ∃ t, exec .silenceTimerExpiry s = .next t ∧
      t.tracker = { s.tracker with state := .blind, clean := 0 } ∧
      (s.mgmt.reports.length < 64 → t.mgmt.reports = s.mgmt.reports ++ [.track true]) ∧
      (∀ i b', bagAt t i = some b' → ∃ b, bagAt s i = some b ∧ b'.edge = b.edge ∧ b'.target = b.target ∧
        b'.owned = b.owned ∧ (b'.edge.isSome = true → b'.uncertain = true)) ∧
      (∀ c i b v, c < 32 → i ∈ armedAt s c → bagAt s i = some b → b.divert = some v →
        ∃ b', bagAt t i = some b' ∧ b'.state = .routed ∧ b'.divert = none) ∧ windowPlayers t = [] ∧
      t.nodes = s.nodes ∧ t.holds = s.holds ∧ t.chutes = s.chutes ∧ t.strays = s.strays ∧ t.gate = s.gate ∧
      t.line.transit = s.line.transit ∧ t.mgmt.counters = s.mgmt.counters) ∧
    (s.tracker.silence = true → s.tracker.state = .tracking → TablesWf s → Orderly s → windowPlayers s = [] →
      Gives (exec .silenceTimerExpiry s) (withReport (.track true)
        { allDisarmed s with
          tracker := { s.tracker with state := .blind, clean := 0 }
          bags := (allDisarmed s).bags.map fun (i, o) =>
            (i, o.map fun b => if b.edge.isSome then { b with uncertain := true } else b) }))

/-- An EYE or SCAN frame that is stale is counted and has no effect on any block; a loop eye with no position is an
unknown source, a reader with none an unattached scan (R36, R37, R38). -/
def Obligations.StaleAndUnplacedEvents : Prop :=
  ∀ (s : State) (src idx stamp : Byte) (edge : Edge) (codes : List TagCode),
    (∀ ids id, Attributed s src (.eye ids) → (ids[idx.toNat]?).join = some id →
      (s.tracker.cfg = none → Gives (exec (.eye src idx edge stamp) s) (bump .stale s)) ∧
      (∀ c k, s.tracker.cfg = some c → id = .loop k → eyePos c k = none →
        Gives (exec (.eye src idx edge stamp) s) (bump .unknownSources s)) ∧
      (∀ c, s.tracker.cfg = some c → (∀ k, id = .loop k → (eyePos c k).isSome = true) →
        (∀ h ∈ s.tracker.history, h.seq ≠ stamp.toNat) →
        Gives (exec (.eye src idx edge stamp) s) (bump .stale s))) ∧
    ∀ r, Attributed s src (.scanner r) →
      (s.tracker.cfg = none → Gives (exec (.scan src stamp codes) s) (bump .stale s)) ∧
      (∀ c, s.tracker.cfg = some c → readerPos c r = none → Gives (exec (.scan src stamp codes) s) (bump .unattached s)) ∧
      (∀ c, s.tracker.cfg = some c → (readerPos c r).isSome = true → (∀ h ∈ s.tracker.history, h.seq ≠ stamp.toNat) →
        Gives (exec (.scan src stamp codes) s) (bump .stale s))

/-! ### Induction and loop speed -/

/-- INDUCT at an empty slot fills it with the station's type, moves the loop drive to RUN and is answered GATE WAIT when
no grant is allowed; at a full slot it is only answered WAIT again (R40, R47, R53, R54). A request that meets the nine
conditions of R42 is granted in its own event: an INDUCTING record at the lowest free index, the induction in flight with the
induct timeout, GATE PERMIT, the slot empty, the pointer at the station, the inducted counter (R45, R46). A NORMAL station's
grant pairs nothing, nor does an ENCODE station's with the keyed order empty; otherwise an ENCODE station's record takes the
code of the entry at the head of the keyed order, which leaves the list (R188), here a list that left a STRAY chute room
already, so that no chute becomes available by it. With several stations waiting, the first in round-robin order from the
station after the pointer to the pointer's own that waits and that a STATION entry still maps is granted, and the pointer set
to it (R45); each waiting station before it in that order is mapped no longer, and its slot empties with no record and no GATE
frame (R41). The station of the INDUCT is answered WAIT where another is granted (R40). -/
def Obligations.InductWaitsOrIsGranted : Prop :=
  (∀ (s : State) (src idx : Byte) (ids : List (Option StationId)) (n : Nat) (ty : StationType) (a i : Nat),
      Attributed s src (.station ids) → (ids[idx.toNat]?).join = some { number := n, type := ty } →
      stationAddr s n = some (a, i) →
      (∀ y, requestAt s n = some y → Gives (exec (.induct src idx) s) (withControl a (.gate i false) s)) ∧
      (requestAt s n = none →
        let t := awake { s with gate := { s.gate with slots := tablePut none s.gate.slots n (some ty) } }
        grantAllowed t = false → Gives (exec (.induct src idx) s) (withControl a (.gate i false) t))) ∧
  ∀ (s : State) (src idx : Byte) (ids : List (Option StationId)) (n a i k : Nat) (ty : StationType) (c : LoopCfg),
    Attributed s src (.station ids) → (ids[idx.toNat]?).join = some { number := n, type := ty } → n < 4 →
    stationAddr s n = some (a, i) → requestAt s n = none → s.tracker.cfg = some c → s.gate.speed = .run →
    c.vRun ≤ s.tracker.speed → s.tracker.state = .tracking → s.mgmt.sortHold = false → s.gate.drive = .ready →
    s.gate.inFlight = none → liveCount s < c.loopLimit → liveCount s < 512 → spanClear c s = true → LowestFree s k →
    let granted := fun (m : Nat) (slots : Table (Option StationType)) (o : Option Owned) (x : Strays) =>
      { s with
        gate := { s.gate with slots := slots, inFlight := some { bag := k, remaining := c.inductTimeout }, pointer := m,
                              runTimer := none, slowTimer := none }
        bags := tablePut none s.bags k (some (newBag m o))
        strays := x }
    let alone := fun (o : Option Owned) (x : Strays) =>
      Gives (exec (.induct src idx) s) (bump .inducted (withControl a (.gate i true) (granted n [] o x)))
    (s.gate.slots = [] → ty = .normal ∨ s.strays.keyedOrder = [] → alone none s.strays) ∧
    (∀ m ms es1 e es2, s.gate.slots = [] → ty = .encode → s.strays.keyedOrder = m :: ms → m ∉ ms →
      s.strays.entries = es1 ++ e :: es2 → e.slot = m → (∀ y ∈ es1 ++ es2, y.slot ≠ m) →
      s.chutes = [] ∨ s.strays.entries.length + strayCommitted s < 64 →
      alone e.keyed { s.strays with entries := es1 ++ es2, keyedOrder := ms }) ∧
    ∀ (before after : List Nat) (m a' i' : Nat) (y : StationType), TablesWf s →
      let filled := tablePut none s.gate.slots n (some ty)
      (List.range 4).map (fun d => (s.gate.pointer + 1 + d) % 4) = before ++ m :: after →
      (∀ d ∈ before, tableGet none filled d = none ∨ stationAddr s d = none) →
      tableGet none filled m = some y → stationAddr s m = some (a', i') → y = .normal ∨ s.strays.keyedOrder = [] →
      let left := (before ++ [m]).foldl (fun q d => tablePut none q d none) filled
      let t := bump .inducted (withControl a' (.gate i' true) (granted m left none s.strays))
      Gives (exec (.induct src idx) s) (if m = n then t else withControl a (.gate i false) t)

/-- A body meets the merge span exactly when some position of the loop lies in both (R43). -/
def Obligations.MergeSpanMeetsBody : Prop :=
  ∀ (c : LoopCfg) (e lb : Nat), e < c.len → 1 ≤ lb → lb ≤ c.len → c.gapBefore + c.maxBag + c.gapAfter < c.len →
    (bodyInSpan c e lb = true ↔
      ∃ x, x < c.len ∧
        downstream c.len ((c.len - c.gapBefore) % c.len) x ≤ c.gapBefore + c.maxBag + c.gapAfter ∧
        downstream c.len x e ≤ lb - 1)

/-- DRIVE READY and DRIVE FAULT set the drive state and report a change; a repeated state changes nothing; FAULT keeps all
else, and READY makes a grant attempt, which finds no request here (R55). The run idle timer's expiry leaves RUN for SLOW with
one SPEED frame and starts the slow idle timer; the slow idle timer's leaves SLOW for STANDBY with one (R53, R54); that the row
of a stopped timer's expiry does nothing is the model's choice (log 2). -/
def Obligations.DriveFramesAndIdleTimers : Prop :=
  (∀ (s : State) (src : Byte), Attributed s src .drive →
      (s.gate.drive = .ready → Gives (exec (.driveReady src) s) s) ∧
      (s.gate.drive = .fault → Gives (exec (.driveFault src) s) s) ∧
      (s.gate.drive ≠ .fault → Gives (exec (.driveFault src) s)
        (withReport (.drive true) { s with gate := { s.gate with drive := .fault } })) ∧
      (s.gate.drive ≠ .ready → s.gate.slots = [] → Gives (exec (.driveReady src) s)
        (withReport (.drive false) { s with gate := { s.gate with drive := .ready } }))) ∧
  ∀ s : State, s.resetLow = false →
    (s.gate.runTimer = none → Gives (exec .runIdleTimerExpiry s) s) ∧
    (s.gate.runTimer.isSome = true → Gives (exec .runIdleTimerExpiry s) (withSpeed .slow
      { s with gate := { s.gate with runTimer := none, slowTimer := s.tracker.cfg.map (·.slowIdle) } })) ∧
    (s.gate.slowTimer = none → Gives (exec .slowIdleTimerExpiry s) s) ∧
    (s.gate.slowTimer.isSome = true → Gives (exec .slowIdleTimerExpiry s) (withSpeed .standby
      { s with gate := { s.gate with slowTimer := none } }))

/-- The rows INDUCT_TIMEOUT and ENTRY_OVERSIZE, which act where their condition stands and otherwise do nothing: the model's
choice (log 12), TRACK having taken both first within its own advance (AdvanceRunsCountsDown). An induction whose count has run
out ends: its record, alone on the loop and owning nothing, is freed NO_SHOW with its report and its count, and the idle loop
starts the run idle timer (R48, R53, R73), no request waiting. A measurement at the entry eye that stands at the maximum bag
length or above (log 22) closes, and the bag is marked OVERSIZE with that length; an UNREAD or ROUTED one becomes ROUTED to
STRAY(OVERSIZE), no chute being available here to take it, and a DIVERTING one goes on (R52). An ARMED bag is left out. -/
def Obligations.InductTimeoutAndEntryOversize : Prop :=
  ∀ s : State, s.resetLow = false →
    ((∀ i, s.gate.inFlight ≠ some { bag := i, remaining := 0 }) → Gives (exec .inductTimeout s) s) ∧
    (∀ (i : Nat) (b : Bag) (c : LoopCfg), s.gate.inFlight = some { bag := i, remaining := 0 } →
      s.bags = [(i, some b)] → b.owned = none → s.gate.slots = [] → s.gate.entryMeas = none → s.loopMeas = [] →
      s.tracker.cfg = some c → s.gate.speed = .run → s.gate.runTimer = none →
      Gives (exec .inductTimeout s)
        (bump .noShows (withReport
          (.noShow { index := i, owned := none, target := b.target, recirc := b.recirc } b.station)
          { s with bags := [], gate := { s.gate with inFlight := none, runTimer := some c.runIdle } }))) ∧
    ((∀ c m, s.tracker.cfg = some c → s.gate.entryMeas = some m → m.m < c.maxBag) →
      Gives (exec .entryOversize s) s) ∧
    (∀ (c : LoopCfg) (i m : Nat) (b : Bag), s.tracker.cfg = some c → s.gate.entryMeas = some { bag := i, m := m } →
      c.maxBag ≤ m → bagAt s i = some b → b.state = .unread ∨ b.state = .routed → NoneAvailable s → s.loopMeas = [] →
      Gives (exec .entryOversize s)
        { s with
          gate := { s.gate with entryMeas := none }
          bags := tablePut none s.bags i (some
            { b with oversize := true, len := some c.maxBag, state := .routed, target := some (.stray .oversize) }) }) ∧
    ∀ (c : LoopCfg) (i m : Nat) (b : Bag), s.tracker.cfg = some c → s.gate.entryMeas = some { bag := i, m := m } →
      c.maxBag ≤ m → bagAt s i = some b → b.state = .diverting → s.loopMeas = [] →
      Gives (exec .entryOversize s)
        { s with
          gate := { s.gate with entryMeas := none }
          bags := tablePut none s.bags i (some { b with oversize := true, len := some c.maxBag }) }

/-! ### The Bag Table's eyes -/

/-- Entry-eye events (R49, R50, R51): a BLOCK positions the record in flight and opens its measurement; a record that owns a
paired code is routed at once, NO_MATCH where its cabin is gone or its deck has changed, and otherwise by closure, hold and
class (R113), here with no chute available; with none in flight it is a ghost, counted, with a new record; a CLEAR sets the measured
length, at least 1 (log 22); with no measurement open it does nothing. No request waits. -/
def Obligations.EntryEyeEvents : Prop :=
  ∀ (s : State) (src idx stamp : Byte) (ids : List (Option EyeId)) (c : LoopCfg) (adv : Nat),
    Attributed s src (.eye ids) → (ids[idx.toNat]?).join = some .entry → s.tracker.cfg = some c →
    Stamped s stamp.toNat adv → s.gate.slots = [] →
    let e := (c.entryPos + adv) % c.len
    let blind := decide (s.tracker.state = .blind)
    let eye := placeEye c 1 e (tolerance c blind)
    (∀ i r b, s.gate.inFlight = some { bag := i, remaining := r } → s.gate.entryMeas = none → bagAt s i = some b →
      b.owned = none →
      Gives (exec (.eye src idx .block stamp) s)
        { s with
          gate := { s.gate with inFlight := none, entryMeas := some { bag := i, m := adv } }
          bags := tablePut none s.bags i (some
            { b with state := .unread, edge := some e, len := some c.maxBag, uncertain := blind, expEye := eye }) }) ∧
    (∀ i r b o, s.gate.inFlight = some { bag := i, remaining := r } → s.gate.entryMeas = none → bagAt s i = some b →
      b.owned = some o → b.recirc ≤ c.recircLimit → NoneAvailable s →
      let sail := sailingAt s o.sailing
      let routed := fun (x : Cabin) =>
        if x.deck ≠ o.deck then Target.stray .noMatch
        else if sail.state = .closed ∨ hasDeck sail.closedDecks x.deck = true then .stray .closed
        else if o.code ∈ s.holds then .stray .held
        else match x.override, tableGet none sail.active.map ((x.deck - 1) * 8 + (x.zone - 1)) with
          | some k, _ => .sort k
          | none, some k => .sort k
          | none, none => .stray .noRoute
      let given := fun (t : Target) => Gives (exec (.eye src idx .block stamp) s)
        { s with
          gate := { s.gate with inFlight := none, entryMeas := some { bag := i, m := adv } }
          bags := tablePut none s.bags i (some
            { b with state := .routed, edge := some e, len := some c.maxBag, uncertain := blind, expEye := eye,
                     target := some t }) }
      (sail.active.code ≠ sailingField o.code ∨ bankFind sail.active (cabinField o.code) = none → given (.stray .noMatch)) ∧
      ∀ p x, sail.active.code = sailingField o.code → bankFind sail.active (cabinField o.code) = some (p, x) →
        given (routed x)) ∧
    (∀ k, s.gate.inFlight = none → s.gate.entryMeas = none → LowestFree s k →
      let ghost : Bag :=
        { state := .unread, station := none, edge := some e, len := some c.maxBag, recirc := 0, expEye := eye, misses := 0,
          uncertain := blind, oversize := false, lastScan := [], owned := none, target := none, divert := none }
      let t := awake (bump .ghosts { s with bags := tablePut none s.bags k (some ghost) })
      Gives (exec (.eye src idx .block stamp) s)
        { t with gate := { t.gate with entryMeas := some { bag := k, m := adv } } }) ∧
    (∀ i m b, s.gate.entryMeas = some { bag := i, m := m } → bagAt s i = some b →
      Gives (exec (.eye src idx .clear stamp) s)
        { s with
          gate := { s.gate with entryMeas := none }
          bags := tablePut none s.bags i (some { b with len := some (max 1 (m - adv)) }) }) ∧
    (s.gate.entryMeas = none → Gives (exec (.eye src idx .clear stamp) s) s)

/-- A BLOCK at loop eye k is matched with one of its candidates: the smallest error in magnitude, then the smaller error, then
the lower index (R64). The match corrects the bag's edge to (Qk + s) modulo L, resets its misses, clears UNCERTAIN, places the
next eye and, unless the bag is OVERSIZE, opens the eye's measurement (R65); a correction that crosses nothing, a backward one
among them, does nothing more. Forward through the lap mark, the bag, alone on the loop, expects the first loop eye of its new
lap; UNREAD or ROUTED it is counted and re-targeted (R71), here with no chute available; ARMED it is disarmed without a fire, and
DIVERTING with a position deadline it is missed and counted, and is then counted on the lap and offered once; with a count
deadline it goes on DIVERTING. Forward past its fire position an ARMED bag is disarmed and offered, and past a position deadline
a DIVERTING one is missed and offered, each from its corrected edge (R66). The offer is shown for an OVERFLOW bag and the one
chute loaded: a fresh trial there arms it anew or leaves it ROUTED. That a bag missed at its deadline may be armed on the same
lap at the very chute it was missed at, which R157 calls not reachable on this lap, is the model's choice (log 40). -/
def Obligations.LoopEyeMatchCorrectsEdge : Prop :=
  ∀ (s : State) (src idx stamp : Byte) (ids : List (Option EyeId)) (c : LoopCfg) (adv k q i e : Nat) (b : Bag),
    Attributed s src (.eye ids) → (ids[idx.toNat]?).join = some (.loop k) → s.tracker.cfg = some c →
    eyePos c k = some q → Stamped s stamp.toNat adv → s.gate.slots = [] → s.loopMeas = [] →
    let near := fun (x : Bag) (d : Int) => x.state ≠ .inducting ∧ x.expEye = some { eye := k, lap := .this } ∧
      (∃ e', x.edge = some e' ∧ eyeError c.len e' q adv = d) ∧ d.natAbs ≤ tolerance c x.uncertain
    let e1 := (q + adv) % c.len
    let err := eyeError c.len e q adv
    let corrected : Bag :=
      { b with edge := some e1, misses := 0, uncertain := false, expEye := placeEye c (k + 1) e1 c.eyeTol }
    let matched : State := { s with loopMeas := if b.oversize then [] else [(k, some { bag := i, m := adv })] }
    b.edge = some e → near b err →
    (TablesWf s → bagAt s i = some b →
      (∀ j x d, bagAt s j = some x → j ≠ i → near x d →
        err.natAbs < d.natAbs ∨ (err.natAbs = d.natAbs ∧ (err < d ∨ (err = d ∧ i < j)))) →
      (0 < err → e ≤ e1 ∧
        (b.state = .armed → ∀ v, b.divert = some v → v.fire ≤ e ∨ e1 < v.fire) ∧
        (b.state = .diverting → ∀ v p, b.divert = some v → v.deadline = .position p → p ≤ e ∨ e1 < p)) →
      Gives (exec (.eye src idx .block stamp) s) { matched with bags := tablePut none s.bags i (some corrected) }) ∧
    (s.bags = [(i, some b)] → 0 < err →
      let laps := min 15 (b.recirc + 1)
      let first := firstEye c .this
      (e1 < e → NoneAvailable s →
        let passed := fun (x : Bag) => Gives (exec (.eye src idx .block stamp) s) { matched with bags := [(i, some x)] }
        let lapped := { corrected with recirc := laps, expEye := first }
        (b.state = .unread → passed
          (if c.recircLimit < laps then { lapped with state := .routed, target := some (.stray .noRead) } else lapped)) ∧
        (b.state = .routed → passed
          (if isSort b.target ∧ c.recircLimit < laps then { lapped with target := some (.stray .recirc) } else lapped))) ∧
      (∀ v n, e1 < e → b.state = .diverting → b.divert = some v → v.deadline = .count n →
        Gives (exec (.eye src idx .block stamp) s) { matched with bags := [(i, some { corrected with expEye := first })] }) ∧
      ∀ (ch lb : Nat) (rank : Option Nat) (r : Chute) (w : Reason) (v : Divert), s.chutes = [(ch, some r)] → ch < 32 →
        r.role = .overflow → r.takeaway = none → (playerAt s r.diverter).mode = .auto → s.mgmt.sortHold = false →
        s.tracker.state = .tracking → s.queues = [(ch, [{ bag := i, rank := rank }])] → b.target = some (.overflow w) →
        b.len = some lb → b.divert = some v → v.chute = ch →
        let f := firePos r.pos lb (leadOf s.tracker.speed r.leadTime)
        let offered := fun (x : Bag) (u : State) => Gives (exec (.eye src idx .block stamp) s)
          (if e1 < f ∧ r.armDist ≤ f - e1 then
            { u with
              queues := [(ch, [{ bag := i, rank := none }])]
              bags := [(i, some { x with
                state := .armed
                divert := some (Divert.mk ch f (windowOf lb r.margin)
                  (if f + r.confirmDist ≤ c.len - 1 then .position (f + r.confirmDist) else .count r.confirmDist)) })] }
          else { u with queues := [], bags := [(i, some { x with state := .routed, divert := none })] })
        (b.state = .armed →
          (e1 < e → offered { corrected with recirc := laps, expEye := first } matched) ∧
          (e < v.fire → v.fire ≤ e1 → offered corrected matched)) ∧
        ∀ p, b.state = .diverting → v.deadline = .position p →
          (e1 < e → offered { corrected with recirc := laps, expEye := first } (bump .missedDiverts matched)) ∧
          (e < p → p ≤ e1 → offered corrected (bump .missedDiverts matched)))

/-- A BLOCK at loop eye k that no record explains is a ghost: counted, with a new UNREAD record and a measurement (R67);
a CLEAR closes the eye's measurement with the measured length, at most the maximum (R68). The row LOOP_EYE_LENGTH_REACHED closes
a measurement that stands at the maximum, the length unchanged (R68), and otherwise does nothing: the model's choice (log 12),
TRACK having closed it first within its own advance (AdvanceRunsCountsDown). -/
def Obligations.LoopEyeGhostAndMeasure : Prop :=
  ∀ (s : State) (c : LoopCfg) (k : Nat), s.tracker.cfg = some c →
    (∀ (src idx stamp : Byte) (ids : List (Option EyeId)) (adv q n : Nat),
      Attributed s src (.eye ids) → (ids[idx.toNat]?).join = some (.loop k) → eyePos c k = some q →
      Stamped s stamp.toNat adv → s.gate.slots = [] →
      (s.loopMeas = [] → LowestFree s n → (∀ i b, (i, some b) ∈ s.bags → candidate c k q adv b = none) →
        let blind := decide (s.tracker.state = .blind)
        let e := (q + adv) % c.len
        let ghost : Bag :=
          { state := .unread, station := none, edge := some e, len := some c.maxBag, recirc := 0,
            expEye := placeEye c (k + 1) e (tolerance c blind), misses := 0, uncertain := blind, oversize := false,
            lastScan := [], owned := none, target := none, divert := none }
        let t := awake (bump .ghosts { s with bags := tablePut none s.bags n (some ghost) })
        Gives (exec (.eye src idx .block stamp) s) { t with loopMeas := [(k, some { bag := n, m := adv })] }) ∧
      (∀ i m b, measureAt s k = some { bag := i, m := m } → bagAt s i = some b → b.oversize = false →
        Gives (exec (.eye src idx .clear stamp) s)
          { s with
            loopMeas := tablePut none s.loopMeas k none
            bags := tablePut none s.bags i (some { b with len := some (min c.maxBag (max 1 (m - adv))) }) })) ∧
    (s.resetLow = false →
      (∀ m, measureAt s k = some m → c.maxBag ≤ m.m →
        Gives (exec (.loopEyeLengthReached k) s) { s with loopMeas := tablePut none s.loopMeas k none }) ∧
      ((∀ m, measureAt s k = some m → m.m < c.maxBag) → Gives (exec (.loopEyeLengthReached k) s) s))

/-! ### Scans and holds -/

/-- A SCAN of one well-formed code over the one bag on the belt, UNREAD, whose cabin the sailing's ACTIVE bank holds and
whose serial is unseen: the bag takes the code, the serial joins the seen set, mirrored into STAGING while a walk carries and its
cursor has reached the cabin (R90), and the routing checks give the target, in the order closure, hold, class, sort (R104 to
R111). The bag is within the recirculation limit, no RESTART sweeps, and no chute is available. -/
def Obligations.ScanTakesAndRoutes : Prop :=
  ∀ (s : State) (src stamp : Byte) (code : TagCode) (rd i r p d : Nat) (c : LoopCfg) (adv : Nat) (b : Bag) (x : Cabin),
    Attributed s src (.scanner rd) → s.tracker.cfg = some c → readerPos c rd = some r → Stamped s stamp.toNat adv →
    s.bags = [(i, some b)] → b.state = .unread → b.owned = none → b.target = none → b.oversize = false →
    scanDistance c r adv b = some d → b.recirc ≤ c.recircLimit → NoneAvailable s → wellFormedCode code = true →
    s.sailing0.state ≠ .empty → s.sailing0.code = some (sailingField code) → s.sailing0.active.code = sailingField code → bankFind s.sailing0.active (cabinField code) = some (p, x) →
    hasSerial x.seen (serialField code) = false →
    let cls := match x.override with
      | some k => some k
      | none => tableGet none s.sailing0.active.map ((x.deck - 1) * 8 + (x.zone - 1))
    let target :=
      if s.sailing0.state = .closed ∨ hasDeck s.sailing0.closedDecks x.deck = true then Target.stray .closed
      else if code ∈ s.holds then Target.stray .held
      else match cls with
        | some k => Target.sort k
        | none => Target.stray .noRoute
    Gives (exec (.scan src stamp [code]) s)
      { withSeen0 code p x s with
        bags := [(i, some { b with lastScan := [code], state := .routed, target := some target,
                                   owned := some { code := code, sailing := 0, deck := x.deck } })] }

/-- A SCAN that takes no code: over no bag it is counted unattached (R104); over the one bag on the belt, UNREAD and
unowned, misreads are counted and dropped, an empty list only replaces the last-scan codes, two codes stray it AMBIGUOUS,
a code of no sailing strays it NO_MATCH and a code already seen DUPLICATE (R105, R106, R108). No chute is available. -/
def Obligations.ScanStraysOrIsIgnored : Prop :=
  ∀ (s : State) (src stamp : Byte) (rd r : Nat) (c : LoopCfg) (adv : Nat),
    Attributed s src (.scanner rd) → s.tracker.cfg = some c → readerPos c rd = some r → Stamped s stamp.toNat adv →
    (∀ codes, (∀ i b, (i, some b) ∈ s.bags → scanDistance c r adv b = none) →
      Gives (exec (.scan src stamp codes) s) (bump .unattached s)) ∧
    ∀ (i d : Nat) (b : Bag), s.bags = [(i, some b)] → b.state = .unread → b.owned = none → b.target = none →
      b.oversize = false → scanDistance c r adv b = some d → NoneAvailable s →
      let read := fun (codes : List TagCode) (b' : Bag) => { s with bags := [(i, some { b' with lastScan := codes })] }
      let strayed := fun (w : Reason) => { b with state := .routed, target := some (.stray w) }
      Gives (exec (.scan src stamp []) s) (read [] b) ∧
      (∀ x, wellFormedCode x = false → Gives (exec (.scan src stamp [x]) s) (bump .misreads (read [] b))) ∧
      (∀ x y, wellFormedCode x = true → wellFormedCode y = true → x ≠ y →
        Gives (exec (.scan src stamp [x, y, x]) s) (read [x, y] (strayed .ambiguous))) ∧
      (∀ x, wellFormedCode x = true → sailingLookup s x = none →
        Gives (exec (.scan src stamp [x]) s) (read [x] (strayed .noMatch))) ∧
      (∀ x g p z, wellFormedCode x = true → sailingLookup s x = some g → cabinLookup s g x = some (p, z) →
        hasSerial z.seen (serialField x) = true →
        Gives (exec (.scan src stamp [x]) s) (read [x] (strayed .duplicate)))

/-- Scans of a bag that already has a target, here the one bag on the belt, ROUTED, with no chute available. One that owns no code:
an empty list or two codes only replace its last-scan codes (R106); one code is a late read, which strays it NO_MATCH or
DUPLICATE or takes the code and routes it, past the recirculation limit STRAY(RECIRC) in place of a cage (R106, R111, R72); an
OVERSIZE bag takes the code and keeps the target it holds (R111, which says so of STRAY(OVERSIZE); for any other target the
model's reading, log 28). One that owns a code: a list with that code alone, or none, changes
only the last-scan codes; a list with any other code strays a bag with a SORT target AMBIGUOUS and leaves any other its target;
it keeps its code, and no tally changes (R107). -/
def Obligations.LateReadsAndRescans : Prop :=
  ∀ (s : State) (src stamp : Byte) (rd r : Nat) (c : LoopCfg) (adv i d : Nat) (b : Bag) (held : Target),
    Attributed s src (.scanner rd) → s.tracker.cfg = some c → readerPos c rd = some r → Stamped s stamp.toNat adv →
    s.bags = [(i, some b)] → b.state = .routed → b.target = some held → scanDistance c r adv b = some d →
    NoneAvailable s →
    let scans := fun (codes : List TagCode) (b' : Bag) (t : State) =>
      Gives (exec (.scan src stamp codes) s) { t with bags := [(i, some { b' with lastScan := codes })] }
    let limited := fun (t : Target) => if isSort (some t) && decide (c.recircLimit < b.recirc) then Target.stray .recirc else t
    let given := fun (t : Target) => if b.oversize then b else { b with target := some (limited t) }
    scans [] b s ∧
    (b.owned = none →
      (∀ x y, wellFormedCode x = true → wellFormedCode y = true → x ≠ y → scans [x, y] b s) ∧
      (∀ x, wellFormedCode x = true → sailingLookup s x = none → scans [x] (given (.stray .noMatch)) s) ∧
      (∀ x g, wellFormedCode x = true → sailingLookup s x = some g → cabinLookup s g x = none →
        scans [x] (given (.stray .noMatch)) s) ∧
      (∀ x g p z, wellFormedCode x = true → sailingLookup s x = some g → cabinLookup s g x = some (p, z) →
        hasSerial z.seen (serialField x) = true → scans [x] (given (.stray .duplicate)) s) ∧
      ∀ x p z, wellFormedCode x = true → sailingLookup s x = some 0 → cabinLookup s 0 x = some (p, z) →
        hasSerial z.seen (serialField x) = false →
        let target :=
          if s.sailing0.state = .closed ∨ hasDeck s.sailing0.closedDecks z.deck = true then Target.stray .closed
          else if x ∈ s.holds then Target.stray .held
          else match z.override, tableGet none s.sailing0.active.map ((z.deck - 1) * 8 + (z.zone - 1)) with
            | some k, _ => Target.sort k
            | none, some k => Target.sort k
            | none, none => Target.stray .noRoute
        scans [x] { given target with owned := some { code := x, sailing := 0, deck := z.deck } } (withSeen0 x p z s)) ∧
    ∀ o, b.owned = some o →
      (wellFormedCode o.code = true → scans [o.code] b s) ∧
      let moved := if isSort b.target then { b with target := some (.stray .ambiguous) } else b
      (∀ x, wellFormedCode x = true → x ≠ o.code → scans [x] moved s) ∧
      ∀ x y, wellFormedCode x = true → wellFormedCode y = true → x ≠ y → scans [x, y] moved s

/-- HOLD and RELEASE: each is answered by one HOLD_ACK with the code as carried. A misread is counted and changes nothing.
A HOLD of a code on the list is ALREADY, of one that finds the list full FULL, and otherwise the code joins the tail (R114,
R115, R118); its live owner, ROUTED to a cage, is strayed HELD first (R116), here with no chute available. A RELEASE takes the
code off the list, the rest keeping their order, or is NOT_HELD; no bag is re-routed (R117). -/
def Obligations.HoldFramesEditList : Prop :=
  ∀ (s : State) (src : Byte) (x : TagCode), Attributed s src .screening →
    let acked := fun st (t : State) => withControl src.toNat (.holdAck x st) t
    (wellFormedCode x = false → Gives (exec (.hold src x) s) (acked .badCode (bump .misreads s))) ∧
    (wellFormedCode x = true → x ∈ s.holds → Gives (exec (.hold src x) s) (acked .already s)) ∧
    (wellFormedCode x = true → x ∉ s.holds → 32 ≤ s.holds.length → Gives (exec (.hold src x) s) (acked .full s)) ∧
    (wellFormedCode x = true → x ∉ s.holds → s.holds.length < 32 →
      (∀ i b, (i, some b) ∈ s.bags → b.owned.map (·.code) ≠ some x) →
      Gives (exec (.hold src x) s) (acked .held { s with holds := s.holds ++ [x] })) ∧
    (∀ i b o k, wellFormedCode x = true → x ∉ s.holds → s.holds.length < 32 → NoneAvailable s →
      s.bags = [(i, some b)] → b.owned = some o → o.code = x → b.state = .routed → b.target = some (.sort k) →
      Gives (exec (.hold src x) s)
        (acked .held { s with holds := s.holds ++ [x], bags := [(i, some { b with target := some (.stray .held) })] })) ∧
    (wellFormedCode x = false → Gives (exec (.release src x) s) (acked .badCode (bump .misreads s))) ∧
    (wellFormedCode x = true → x ∉ s.holds → Gives (exec (.release src x) s) (acked .notHeld s)) ∧
    (wellFormedCode x = true → x ∈ s.holds →
      Gives (exec (.release src x) s) (acked .released { s with holds := s.holds.filter (· ≠ x) }))

/-! ### Chutes, cages and diverts -/

/-- The lead is V * A / 32 rounded up, at most 4095 (R147); F is Pc + floor(Lb / 2) less the lead, within 1 to L - 1, and W is
Lb plus twice the margin, within 1 to 4095 (R148). -/
def Obligations.LeadFireAndWindow : Prop :=
  ∀ v a : Nat,
    (∃ n, v * a ≤ 32 * n ∧ (∀ m, v * a ≤ 32 * m → n ≤ m) ∧ leadOf v a = min 4095 n) ∧
    ∀ l pc lb mg, 4096 ≤ pc → pc + 1024 ≤ l → 1 ≤ lb → lb ≤ 2047 →
      firePos pc lb (leadOf v a) + leadOf v a = pc + lb / 2 ∧ 1 ≤ firePos pc lb (leadOf v a) ∧
      firePos pc lb (leadOf v a) ≤ l - 1 ∧ windowOf lb mg = min 4095 (lb + 2 * mg) ∧ 1 ≤ windowOf lb mg

/-- A BLOCK at a chute eye confirms the DIVERTING bag fired earliest there, the one of firing rank 1; its entry leaves the queue
and the ranks of the bags still DIVERTING move up by one (R154). With no other bag ROUTED or ARMED: an OVERFLOW chute frees it
OVERFLOWED; a STRAY chute makes a WAITING entry at the next slot and frees it STRAYED (R181, R182; that the queued report names
the chute is log 36); a SORT chute with no cage frees it LOOSE and its code is released (R140, R74); a SORT chute with a cage
loads it: the code joins the list, a pooled chute with no class takes the bag's, the serial is set loaded, LOADED, then
CABIN_DONE when the loaded serials are as many as expected, and FULL by COUNT at the capacity (R138, R139, R135). The tally is
mirrored into STAGING while a walk carries and its cursor has reached the cabin, cabin-done not into a record that expects no
bags (R90). The last bag's end starts the run idle timer (R53). -/
def Obligations.ChuteEyeLandsBag : Prop :=
  ∀ (s : State) (src idx stamp : Byte) (ids : List (Option EyeId)) (c i adv : Nat) (cfg : LoopCfg) (b : Bag) (r : Chute)
    (q1 q2 : List QEntry),
    Attributed s src (.eye ids) → (ids[idx.toNat]?).join = some (.chute c) → s.tracker.cfg = some cfg →
    Stamped s stamp.toNat adv → TablesWf s → chuteAt s c = some r →
    queueAt s c = q1 ++ { bag := i, rank := some 1 } :: q2 → (∀ e ∈ q1 ++ q2, e.bag ≠ i) → (∀ e ∈ q1, e.rank ≠ some 1) →
    bagAt s i = some b → (∀ j x, bagAt s j = some x → x.state ≠ .routed ∧ x.state ≠ .armed) →
    s.gate.slots = [] → s.gate.entryMeas = none → s.loopMeas = [] → s.gate.speed = .run → s.gate.runTimer = none →
    s.gate.slowTimer = none →
    let d : Disposed := { index := i, owned := b.owned.map (·.code), target := b.target, recirc := b.recirc }
    let moved := (q1 ++ q2).map fun e => { e with rank := e.rank.map fun m => if 1 < m then m - 1 else m }
    let bags := tablePut none s.bags i none
    let gone : State :=
      { s with
        queues := tablePut [] s.queues c moved
        bags := bags
        gate := if bags = [] then { s.gate with runTimer := some cfg.runIdle } else s.gate }
    (r.role = .overflow → b.owned = none →
      Gives (exec (.eye src idx .block stamp) s) (bump .overflowed (withReport (.overflowed d c) gone))) ∧
    (∀ w lb, r.role = .stray → b.owned = none → b.target = some (.stray w) → b.len = some lb → s.strays.entries = [] →
      Gives (exec (.eye src idx .block stamp) s)
        (bump .strayed (withReport (.strayed d c s.strays.nextSlot b.lastScan)
          { gone with strays :=
            { s.strays with
              entries := [{ slot := s.strays.nextSlot, reason := w, codes := b.lastScan, len := lb, keyed := none }]
              nextSlot := (s.strays.nextSlot + 1) % 65536 } }))) ∧
    ∀ o p x, r.role = .sort → b.owned = some o → o.sailing = 0 → s.sailing0.active.code = sailingField o.code → bankFind s.sailing0.active (cabinField o.code) = some (p, x) →
      let tallied := fun (f g : Cabin → Cabin) => { gone with sailing0 := { s.sailing0 with
        active := { s.sailing0.active with recs := tablePut blankCabin s.sailing0.active.recs p (f x) }
        staging := mirrored s.sailing0 o.code g } }
      let cleared := fun (y : Cabin) => { y with seen := y.seen &&& ~~~ serialBit (serialField o.code) }
      (r.cage.state = .absent →
        Gives (exec (.eye src idx .block stamp) s)
          (bump .loose (withReport (.loose d c) (tallied cleared cleared)))) ∧
      ∀ k, r.cage.state ≠ .absent → b.target = some (.sort k) →
        let set := x.loaded ||| serialBit (serialField o.code)
        let done : Prop := x.expected ≠ 0 ∧ serialCount set = x.expected ∧ x.done = false
        let full : Prop := r.cage.state = .opened ∧ r.cage.loaded.length + 1 = r.capacity
        let cls := if r.mode = .pooled ∧ r.cls = none then some k else r.cls
        let cage := { r.cage with loaded := r.cage.loaded ++ [o.code] }
        let t1 := bump .loaded (withReport
          (.loaded d c r.cage.id (decide (o.code ∈ s.holds)) (decide (x.expected < serialField o.code)))
          { tallied
              (fun y => { y with loaded := y.loaded ||| serialBit (serialField o.code), done := if done then true else y.done })
              (fun y => { y with loaded := y.loaded ||| serialBit (serialField o.code),
                                 done := if done ∧ y.expected ≠ 0 then true else y.done }) with
            chutes := tablePut none s.chutes c (some { r with cls := cls, cage := cage }) })
        let t2 := if done then withReport (.cabinDone 0 x.number x.expected c r.cage.id) t1 else t1
        Gives (exec (.eye src idx .block stamp) s)
          (if full then
            withReport (.cageFull c r.cage.id cls r.capacity .count) (withControl r.cageNode (.cagesig .full)
              { t2 with chutes := tablePut none s.chutes c (some
                { r with cls := cls, cage := { cage with state := .full, cause := .count } }) })
          else t2)

/-- A CLEAR at a chute eye does nothing (R154); a BLOCK that no DIVERTING bag explains counts a ghost and, at a SORT chute with
a cage, an unknown entry, up to 255, and does nothing else (R155, R141). -/
def Obligations.ChuteEyeClearAndUnexplained : Prop :=
  ∀ (s : State) (src idx stamp : Byte) (ids : List (Option EyeId)) (c adv : Nat) (cfg : LoopCfg),
    Attributed s src (.eye ids) → (ids[idx.toNat]?).join = some (.chute c) → s.tracker.cfg = some cfg →
    Stamped s stamp.toNat adv →
    Gives (exec (.eye src idx .clear stamp) s) s ∧
    ((∀ e ∈ queueAt s c, e.rank ≠ some 1) →
      (∀ r, chuteAt s c = some r → r.role = .sort → r.cage.state ≠ .absent →
        Gives (exec (.eye src idx .block stamp) s) (bump .ghosts
          { s with
            chutes := tablePut none s.chutes c
              (some { r with cage := { r.cage with unknown := min 255 (r.cage.unknown + 1) } }) })) ∧
      ((∀ r, chuteAt s c = some r → r.role ≠ .sort ∨ r.cage.state = .absent) →
        Gives (exec (.eye src idx .block stamp) s) (bump .ghosts s)))

/-- The row MISSED_DIVERT: a DIVERTING bag at its confirm deadline is missed: its entry leaves the queue, the ranks behind it move
up, the record becomes ROUTED with its target, owner, counts and edge as they stood, and the missed diverts are counted (R157).
The sort hold stands here, so that the offer that follows arms nothing. That the row acts where the deadline stands reached,
and short of it does nothing, is the model's choice (log 12): TRACK (AdvanceRunsCountsDown) and a loop eye's correction (R66)
take the miss first, within their own event. -/
def Obligations.MissedDivertReturnsToLoop : Prop :=
  ∀ (s : State) (i : Nat), s.resetLow = false →
    ((∀ b d, bagAt s i = some b → b.state = .diverting → b.divert = some d →
      (∀ p e, d.deadline = .position p → b.edge = some e → e < p) ∧ ∀ n, d.deadline = .count n → 0 < n) →
      Gives (exec (.missedDivert i) s) s) ∧
    ∀ b d q1 q2 n, bagAt s i = some b → b.state = .diverting → b.divert = some d →
      ((∃ p e, d.deadline = .position p ∧ b.edge = some e ∧ p ≤ e) ∨ ∃ m, d.deadline = .count m ∧ m ≤ 0) →
      s.mgmt.sortHold = true → queueAt s d.chute = q1 ++ { bag := i, rank := some n } :: q2 →
      (∀ e ∈ q1 ++ q2, e.bag ≠ i) →
      Gives (exec (.missedDivert i) s)
        (bump .missedDiverts
          { s with
            bags := tablePut none s.bags i (some { b with state := .routed, divert := none })
            queues := tablePut [] s.queues d.chute
              ((q1 ++ q2).map fun e => { e with rank := e.rank.map fun m => if n < m then m - 1 else m }) })

/-- A CAGE PRESENT at a chute with no cage opens one with the id carried and CAGESIG LOADING (R134); a CAGE REMOVED closes the
cage: CAGE_CLOSED, an entry at the front of the history, ABSENT, CAGESIG CLOSED, a POOLED class cleared (R137, R142); a
PRESENT over a cage does both. A REMOVED with no cage, and any event at a chute that is not a loaded SORT chute, does nothing
(R133). No bag is ARMED and the sort hold stands there, so that no offer arms one. Whatever stands on the belt, every bag ARMED
at the chute is disarmed by a REMOVED, and by a PRESENT over a cage, and offered again (R137, step 1): it ends ROUTED or armed
afresh by a trial that reaches, and after a REMOVED at no chute but another. -/
def Obligations.CagePresentAndRemoved : Prop :=
  ∀ (s : State) (src : Byte) (c : Nat) (id : BitVec 16), Attributed s src (.cage c) →
    ((∀ r, chuteAt s c = some r → r.role ≠ .sort) →
      Gives (exec (.cagePresent src id) s) s ∧ Gives (exec (.cageFullOn src) s) s ∧ Gives (exec (.cageFullOff src) s) s ∧
      Gives (exec (.cageRemoved src) s) s) ∧
    (∀ r, chuteAt s c = some r → r.role = .sort → r.cage.state ≠ .absent → TablesWf s →
      let freed := fun (t : State) (allowed : Nat → Prop) => ∀ i ∈ armedAt s c, ∀ b v, bagAt s i = some b →
        b.divert = some v → ∃ b', bagAt t i = some b' ∧
          ((b'.state = .routed ∧ b'.divert = none) ∨
            (b'.state = .armed ∧ ∃ n x, chuteAt s n = some x ∧ allowed n ∧ reachable s b x = true ∧
              b'.divert = some (Divert.mk n (trialFire s b x) (trialWindow b x)
                (deadlineOf (loopLen s) (trialFire s b x) x.confirmDist))))
      (∃ t, exec (.cageRemoved src) s = .next t ∧ (∃ y, chuteAt t c = some y ∧ y.cage = absentCage) ∧ freed t (· ≠ c)) ∧
      ∃ t, exec (.cagePresent src id) s = .next t ∧
        (∃ y, chuteAt t c = some y ∧ y.cage =
          { state := .opened, id := id.toNat, loaded := [], unknown := 0, sensor := false, cause := .none }) ∧
        freed t fun _ => True) ∧
    ∀ r, chuteAt s c = some r → r.role = .sort → s.mgmt.sortHold = true →
      (∀ i b, bagAt s i = some b → b.state ≠ .armed) →
      let opened := fun (x : Chute) (t : State) => withControl r.cageNode (.cagesig .loading)
        { t with chutes := tablePut none s.chutes c (some
          { x with cage := { state := .opened, id := id.toNat, loaded := [], unknown := 0, sensor := false, cause := .none } }) }
      let let_go := { r with cage := absentCage, cls := if r.mode = .pooled then none else r.cls }
      let closed := withControl r.cageNode (.cagesig .closed)
        { withReport (.cageClosed c r.cage.id r.cls r.cage.loaded.length r.cage.unknown) s with
          closedCages := (ClosedCage.mk c r.cage.id r.cls r.cage.loaded r.cage.unknown r.cage.cause :: s.closedCages).take 8
          chutes := tablePut none s.chutes c (some let_go) }
      (r.cage.state = .absent →
        Gives (exec (.cagePresent src id) s) (opened r s) ∧ Gives (exec (.cageRemoved src) s) s) ∧
      (r.cage.state ≠ .absent →
        Gives (exec (.cagePresent src id) s) (opened let_go closed) ∧ Gives (exec (.cageRemoved src) s) closed)

/-- FULL_ON makes an OPEN cage FULL by SENSOR, with CAGESIG FULL and a CAGE_FULL report, and only sets the flag of a FULL one;
FULL_OFF clears the flag, and reopens a FULL cage below its capacity with CAGESIG LOADING; with no cage neither does
anything (R135, R136). No bag is ARMED and the sort hold stands here. Whatever stands on the belt, no bag that was ARMED at
the chute is armed there after FULL_ON (R135, step 2). -/
def Obligations.CageFullOnAndOff : Prop :=
  ∀ (s : State) (src : Byte) (c : Nat) (r : Chute), Attributed s src (.cage c) → chuteAt s c = some r → r.role = .sort →
    (TablesWf s → r.cage.state = .opened → ∃ t, exec (.cageFullOn src) s = .next t ∧
      (∃ r', chuteAt t c = some r' ∧ r'.cage = { r.cage with state := .full, sensor := true, cause := .sensor }) ∧
      ∀ i ∈ armedAt s c, ∃ b', bagAt t i = some b' ∧ b'.divert.map (·.chute) ≠ some c) ∧
    (s.mgmt.sortHold = true → (∀ i b, bagAt s i = some b → b.state ≠ .armed) →
      let caged := fun (g : Cage) => { s with chutes := tablePut none s.chutes c (some { r with cage := g }) }
      (r.cage.state = .absent → Gives (exec (.cageFullOn src) s) s ∧ Gives (exec (.cageFullOff src) s) s) ∧
      (r.cage.state = .opened →
        Gives (exec (.cageFullOn src) s)
          (withReport (.cageFull c r.cage.id r.cls r.cage.loaded.length .sensor) (withControl r.cageNode (.cagesig .full)
            (caged { r.cage with state := .full, sensor := true, cause := .sensor }))) ∧
        Gives (exec (.cageFullOff src) s) (caged { r.cage with sensor := false })) ∧
      (r.cage.state = .full →
        Gives (exec (.cageFullOn src) s) (caged { r.cage with sensor := true }) ∧
        (r.cage.loaded.length < r.capacity → Gives (exec (.cageFullOff src) s)
          (withControl r.cageNode (.cagesig .loading)
            (caged { r.cage with state := .opened, sensor := false, cause := .none }))) ∧
        (r.capacity ≤ r.cage.loaded.length →
          Gives (exec (.cageFullOff src) s) (caged { r.cage with sensor := false }))))

/-- PIN's checks in order and its effect (R131), and UNPIN's (R132): here with the sort hold set, so that no offer follows. That
an UNPIN leaves a POOLED chute whole even with its cage ABSENT is the model's reading (log 26). -/
def Obligations.PinAndUnpinChute : Prop :=
  ∀ (s : State) (k : Nat) (tag c cls : Byte), Takes s k →
    (31 < c.toNat ∨ 61 < cls.toNat → Gives (exec (.pin tag c cls) s) (withReply k tag 7 .range [] s)) ∧
    (31 < c.toNat → Gives (exec (.unpin tag c) s) (withReply k tag 8 .range [] s)) ∧
    (c.toNat ≤ 31 → (∀ r, chuteAt s c.toNat = some r → r.role ≠ .sort) →
      (cls.toNat ≤ 61 → Gives (exec (.pin tag c cls) s) (withReply k tag 7 .state [] s)) ∧
      Gives (exec (.unpin tag c) s) (withReply k tag 8 .state [] s)) ∧
    ∀ r, c.toNat ≤ 31 → chuteAt s c.toNat = some r → r.role = .sort →
      let put := fun (x : Chute) => { s with chutes := tablePut none s.chutes c.toNat (some x) }
      (cls.toNat ≤ 61 → r.cls ≠ some cls.toNat →
        committed s c.toNat ≠ 0 ∨ (r.cls ≠ none ∧ r.cage.loaded ≠ []) →
        Gives (exec (.pin tag c cls) s) (withReply k tag 7 .state [] s)) ∧
      (cls.toNat ≤ 61 → s.mgmt.sortHold = true →
        r.cls = some cls.toNat ∨ (committed s c.toNat = 0 ∧ (r.cls = none ∨ r.cage.loaded = [])) →
        Gives (exec (.pin tag c cls) s)
          (withReply k tag 7 .ok [] (put { r with mode := .pinned, cls := some cls.toNat }))) ∧
      (r.mode = .pooled → TablesWf s → Gives (exec (.unpin tag c) s) (withReply k tag 8 .ok [] s)) ∧
      (r.mode = .pinned → Gives (exec (.unpin tag c) s)
        (withReply k tag 8 .ok []
          (put { r with mode := .pooled, cls := if r.cage.state = .absent then none else r.cls })))

/-- How a waiting bag is armed, here the one bag on the loop; an arming fixes F and W of R147 and R148 and a deadline at F + Dc,
or a count of Dc where that lies beyond L - 1 (R150). A chute takes the bag when the bag is short of F by at least the arm
distance (R149). A PIN that gives an empty chute a class arms the bag ROUTED to the class (R131, R130). A SCAN that routes an
UNREAD bag to a class offers it first the chute of that class, and then the POOLED chute with no class and an empty OPEN cage,
which takes the class when it arms the bag (R127). A HOLD of a ROUTED bag's code strays it HELD and offers it the STRAY chute,
while the stray list has room (R126), and then the OVERFLOW chute, which makes its target OVERFLOW(HELD) (R116, R128). A bag that
neither of the two chutes takes stays ROUTED. -/
def Obligations.OffersArmTheWaitingBag : Prop :=
  ∀ (s : State) (i e lb : Nat) (b : Bag) (cfg : LoopCfg), s.mgmt.sortHold = false → s.tracker.state = .tracking →
    s.tracker.cfg = some cfg → s.queues = [] → s.bags = [(i, some b)] → b.edge = some e → b.len = some lb →
    let fire := fun (r : Chute) => firePos r.pos lb (leadOf s.tracker.speed r.leadTime)
    let ahead := fun (r : Chute) => e < fire r ∧ r.armDist ≤ fire r - e
    let armed := fun (n : Nat) (r : Chute) (x : Bag) (t : State) =>
      { t with
        queues := [(n, [{ bag := i, rank := none }])]
        bags := [(i, some { x with
          state := .armed
          divert := some (Divert.mk n (fire r) (windowOf lb r.margin)
            (if fire r + r.confirmDist ≤ cfg.len - 1 then .position (fire r + r.confirmDist) else .count r.confirmDist)) })] }
    let auto := fun (r : Chute) => r.takeaway = none ∧ (playerAt s r.diverter).mode = .auto
    (∀ (k : Nat) (tag c cls : Byte) (r : Chute), Takes s k → c.toNat ≤ 31 → cls.toNat ≤ 61 →
      chuteAt s c.toNat = some r → r.role = .sort → r.cls = none → r.cage.state = .opened → r.cage.loaded = [] →
      1 ≤ r.capacity → auto r → b.state = .routed → b.target = some (.sort cls.toNat) → ahead r →
      Gives (exec (.pin tag c cls) s)
        (withReply k tag 7 .ok [] (armed c.toNat r b
          { s with chutes := tablePut none s.chutes c.toNat (some { r with mode := .pinned, cls := some cls.toNat }) }))) ∧
    ∀ (src : Byte) (x : TagCode) (n1 n2 : Nat) (r1 r2 : Chute), n1 < 32 → n2 < 32 → n1 ≠ n2 →
      s.chutes = (if n1 < n2 then [(n1, some r1), (n2, some r2)] else [(n2, some r2), (n1, some r1)]) → auto r1 → auto r2 →
      (∀ (stamp : Byte) (rd rp d adv p cls : Nat) (z : Cabin), Attributed s src (.scanner rd) → readerPos cfg rd = some rp →
        Stamped s stamp.toNat adv → scanDistance cfg rp adv b = some d → b.state = .unread → b.owned = none →
        b.target = none → b.oversize = false → b.recirc ≤ cfg.recircLimit → wellFormedCode x = true →
        sailingLookup s x = some 0 → cabinLookup s 0 x = some (p, z) → hasSerial z.seen (serialField x) = false →
        routeTarget s 0 x z = .sort cls →
        r1.role = .sort → r1.cls = some cls → r1.cage.state = .opened → r1.cage.loaded.length < r1.capacity →
        r2.role = .sort → r2.mode = .pooled → r2.cls = none → r2.cage.state = .opened → r2.cage.loaded = [] →
        1 ≤ r2.capacity →
        let t := withSeen0 x p z s
        let y := { b with lastScan := [x], state := .routed, target := some (.sort cls),
                          owned := some { code := x, sailing := 0, deck := z.deck } }
        Gives (exec (.scan src stamp [x]) s)
          (if ahead r1 then armed n1 r1 y t
          else if ahead r2 then
            armed n2 r2 y { t with chutes := tablePut none s.chutes n2 (some { r2 with cls := some cls }) }
          else { t with bags := [(i, some y)] })) ∧
      (∀ cls o, Attributed s src .screening → wellFormedCode x = true → x ∉ s.holds → s.holds.length < 32 →
        b.state = .routed → b.target = some (.sort cls) → b.owned = some o → o.code = x →
        r1.role = .stray → r2.role = .overflow →
        let t := { s with holds := s.holds ++ [x] }
        let y := { b with target := some (.stray .held) }
        Gives (exec (.hold src x) s) (withControl src.toNat (.holdAck x .held)
          (if s.strays.entries.length < 64 ∧ ahead r1 then armed n1 r1 y t
          else if ahead r2 then armed n2 r2 { b with target := some (.overflow .held) } t
          else { t with bags := [(i, some y)] })))

/-! ### Players -/

/-- PLAYER requests (R169): a player above 39 is RANGE and one with no node STATE; naming the present mode OFF or AUTO changes
nothing; DIRECT named in DIRECT sets the direct level and sends it; any other mode is entered, a play aborted and a pending
fire dropped, with the one LEVEL frame of its entry (R168, R176). No bag is ARMED and the sort hold stands here. -/
def Obligations.PlayerRequestsChangeMode : Prop :=
  ∀ (s : State) (k : Nat) (tag p l : Byte), Takes s k →
    let cs : List Instr := [.playerOff tag p l, .playerAuto tag p l, .playerDirect tag p l]
    (39 < p.toNat → ∀ x ∈ cs, Gives (exec x s) (withReply k tag 9 .range [] s)) ∧
    (p.toNat ≤ 39 → (playerAt s p.toNat).node = none → ∀ x ∈ cs, Gives (exec x s) (withReply k tag 9 .state [] s)) ∧
    ∀ n, p.toNat ≤ 39 → (playerAt s p.toNat).node = some n →
      let r := playerAt s p.toNat
      let sent := fun (x : Player) (lv : Nat) => withReply k tag 9 .ok [] (withControl n (.level r.actuator lv 0)
        { s with players := { s.players with players := tablePut resetPlayer s.players.players p.toNat x } })
      (r.mode = .off → Gives (exec (.playerOff tag p l) s) (withReply k tag 9 .ok [] s)) ∧
      (r.mode = .auto → Gives (exec (.playerAuto tag p l) s) (withReply k tag 9 .ok [] s)) ∧
      (r.mode = .direct → Gives (exec (.playerDirect tag p l) s) (sent { r with level := l.toNat } l.toNat)) ∧
      (s.mgmt.sortHold = true → (∀ i b, bagAt s i = some b → b.state ≠ .armed) →
        (r.mode ≠ .off → Gives (exec (.playerOff tag p l) s)
          (sent { r with mode := .off, play := none, pending := none } 0)) ∧
        (r.mode ≠ .auto → Gives (exec (.playerAuto tag p l) s)
          (sent { r with mode := .auto, play := none, pending := none } 0)) ∧
        (r.mode ≠ .direct → Gives (exec (.playerDirect tag p l) s)
          (sent { r with mode := .direct, level := l.toNat, play := none, pending := none } l.toNat)))

/-- The four ends of a player's waits. That a row out of its phase does nothing, and that WINDOW_HOLD_END acts where the window
count stands at its end and short of it does nothing, TRACK having ended the hold first (AdvanceRunsCountsDown), is the model's
choice (log 2, log 12). The ramp's end begins the segment's hold: a TIME timer, a window from 0 to W, or the wait on a line that
is clear (R170, R171). The end of a TIME or WINDOW hold starts the next segment with its LEVEL frame and ramp, or ends the play
(R170, R171); what follows at once, lines and a pending fire among it, is SegmentStartsRaiseLines. A trigger timeout aborts the
play, faults the player, sends LEVEL 0 and reports it (R173); no bag is ARMED and the sort hold stands there. -/
def Obligations.PlayerWaitsEnd : Prop :=
  ∀ (s : State) (p : Nat), s.resetLow = false →
    let r := playerAt s p
    let put := fun (x : Player) => { s with players :=
      { s.players with players := tablePut resetPlayer s.players.players p x } }
    (∀ x, r.play.map (·.phase) = x → 
      ((∀ ms, x ≠ some (.ramp ms)) → Gives (exec (.rampTimerExpiry p) s) s) ∧
      ((∀ ms, x ≠ some (.time ms)) → Gives (exec (.timeHoldExpiry p) s) s) ∧
      ((∀ m w o, x = some (.window m w o) → m < w) → Gives (exec (.windowHoldEnd p) s) s) ∧
      ((∀ l ms, x ≠ some (.trigger l ms)) → Gives (exec (.triggerTimeout p) s) s)) ∧
    ∀ n y g, r.node = some n → r.play = some y → (profileAt s y.fire.profile)[y.seg]? = some g →
      let at_ := fun (ph : Phase) => put { r with play := some { y with phase := ph } }
      ((∃ ms, y.phase = .ramp ms) →
        (∀ ms, g.hold = .time ms → 1 ≤ ms → Gives (exec (.rampTimerExpiry p) s) (at_ (.time ms))) ∧
        (g.hold = .window → s.tracker.state ≠ .blind →
          Gives (exec (.rampTimerExpiry p) s) (at_ (.window 0 y.fire.window y.fire.window))) ∧
        (∀ l ms, g.hold = .trigger l ms → lineAt s l = none →
          Gives (exec (.rampTimerExpiry p) s) (at_ (.trigger l ms)))) ∧
      (∀ x, (x = .timeHoldExpiry p ∧ ∃ ms, y.phase = .time ms) ∨
          (x = .windowHoldEnd p ∧ ∃ m w o, y.phase = .window m w o ∧ w ≤ m) →
        ((profileAt s y.fire.profile)[y.seg + 1]? = none → r.pending = none →
          Gives (exec x s) (put { r with play := none })) ∧
        ∀ h, (profileAt s y.fire.profile)[y.seg + 1]? = some h → 1 ≤ h.ramp → h.outs = 0 →
          Gives (exec x s) (withControl n (.level r.actuator h.level h.ramp)
            (put { r with play := some { y with seg := y.seg + 1, phase := .ramp h.ramp } }))) ∧
      ∀ l ms, y.phase = .trigger l ms → s.mgmt.sortHold = true → (∀ i b, bagAt s i = some b → b.state ≠ .armed) →
        Gives (exec (.triggerTimeout p) s)
          (withReport (.playerFault p (chuteOfPlayer s p) y.fire.profile y.seg l) (withControl n (.level r.actuator 0 0)
            (put { r with mode := .fault, play := none, pending := none })))

/-- What a segment start and a hold's beginning do at once (R170, R171, R172, R175), shown where a player's TIME hold or ramp ends.
A segment start raises every line of its trigger-out set with this player as setter; a line no player waits on stays pending; a
line waited on is taken by the waiting player with the lowest number, whose hold ends, and is clear. A ramp of 0 begins the hold
in the same event, a TIME hold of 0 and a WINDOW hold in BLIND end at once, and a TRIGGER hold on a pending line takes it and ends.
At the end of the last hold a pending fire starts: the player's own lines are cleared, then segment 0 starts. Where one start raises
several lines, none is waited on here (their order is the model's choice, log 7). -/
def Obligations.SegmentStartsRaiseLines : Prop :=
  ∀ (s : State) (p n : Nat) (y : Play), s.resetLow = false → (playerAt s p).node = some n → (playerAt s p).play = some y →
    let r := playerAt s p
    let put := fun (k : Nat) (x : Player) (t : State) =>
      { t with players := { t.players with players := tablePut resetPlayer t.players.players k x } }
    let segs := profileAt s y.fire.profile
    let next := fun (h : Segment) (t : State) => withControl n (.level r.actuator h.level h.ramp)
      (put p { r with play := some { y with seg := y.seg + 1, phase := .ramp h.ramp } } t)
    ((∃ ms, y.phase = .time ms) → ∀ h, segs[y.seg + 1]? = some h →
      (1 ≤ h.ramp → (∀ l k, l < 8 → h.outs.getLsbD l = true → k < 40 → waitsOn s l k = false) →
        Gives (exec (.timeHoldExpiry p) s) (next h { s with players := { s.players with
          lines := (List.range 8).foldl
            (fun t l => if h.outs.getLsbD l then tablePut none t l (some p) else t) s.players.lines } })) ∧
      (∀ l k z m, 1 ≤ h.ramp → l < 8 → h.outs = 1#8 <<< l → k < 40 → k ≠ p → waitsOn s l k = true →
        (∀ j < k, waitsOn s l j = false) → (playerAt s k).node = some m → (playerAt s k).play = some z →
        let cleared := next h { s with players := { s.players with lines := tablePut none s.players.lines l none } }
        ((profileAt s z.fire.profile)[z.seg + 1]? = none → (playerAt s k).pending = none →
          Gives (exec (.timeHoldExpiry p) s) (put k { playerAt s k with play := none } cleared)) ∧
        ∀ g, (profileAt s z.fire.profile)[z.seg + 1]? = some g → 1 ≤ g.ramp → g.outs = 0 →
          Gives (exec (.timeHoldExpiry p) s) (withControl m (.level (playerAt s k).actuator g.level g.ramp)
            (put k { playerAt s k with play := some { z with seg := z.seg + 1, phase := .ramp g.ramp } } cleared))) ∧
      (∀ ms, h.ramp = 0 → h.outs = 0 → h.hold = .time ms → 1 ≤ ms →
        Gives (exec (.timeHoldExpiry p) s) (withControl n (.level r.actuator h.level 0)
          (put p { r with play := some { y with seg := y.seg + 1, phase := .time ms } } s)))) ∧
    ((∃ ms, y.phase = .time ms) → segs[y.seg + 1]? = none → ∀ f g gs, r.pending = some f →
      profileAt s f.profile = g :: gs → 1 ≤ g.ramp → g.outs = 0 →
      Gives (exec (.timeHoldExpiry p) s) (withControl n (.level r.actuator g.level g.ramp)
        (put p { r with play := some { fire := f, seg := 0, phase := .ramp g.ramp }, pending := none }
          { s with players := { s.players with
            lines := (List.range 8).foldl (fun t l => if lineAt s l = some p then tablePut none t l none else t)
              s.players.lines } }))) ∧
    ((∃ ms, y.phase = .ramp ms) → ∀ g, segs[y.seg]? = some g → segs[y.seg + 1]? = none → r.pending = none →
      let ended := put p { r with play := none } s
      (g.hold = .time 0 → Gives (exec (.rampTimerExpiry p) s) ended) ∧
      (g.hold = .window → s.tracker.state = .blind → Gives (exec (.rampTimerExpiry p) s) ended) ∧
      ∀ l ms x, g.hold = .trigger l ms → lineAt s l = some x →
        Gives (exec (.rampTimerExpiry p) s)
          { ended with players := { ended.players with lines := tablePut none s.players.lines l none } })

/-! ### Management requests -/

/-- A request of an undefined kind, and a QUERY of an undefined query kind, is answered BAD_KIND; arguments of the wrong length,
and an undefined SAILING action or PLAYER mode, are answered RANGE; none of them does anything else (R193, R196, R97,
R169). -/
def Obligations.UndefinedRequestsAreRefused : Prop :=
  ∀ (s : State) (k : Nat) (tag kind : Byte) (args : List Byte), Takes s k →
    (badKind kind args = true → Gives (exec (.reqBadKind tag kind args) s) (withReply k tag kind .badKind [] s)) ∧
    ∀ (bytes : List Byte), parseFrame bytes =
        some { dest := s.line.nodeAddr, src := 0, kind := 0x30, payload := tag :: kind :: args } →
      (badKind kind args = true → Gives (exec (.frameReceive bytes) s) (withReply k tag kind .badKind [] s)) ∧
      (∀ n, (kind.toNat, n) ∈ [(2, 5), (3, 1), (4, 1), (5, 3), (6, 1), (7, 2), (8, 1), (9, 3), (10, 0), (11, 0), (13, 0),
          (14, 0)] → args.length ≠ n → Gives (exec (.frameReceive bytes) s) (withReply k tag kind .range [] s)) ∧
      (kind = 1 ∨ kind = 12 → args = [] → Gives (exec (.frameReceive bytes) s) (withReply k tag kind .range [] s)) ∧
      (∀ q x n, kind = 12 → args = q :: x → (q.toNat, n) ∈ [(1, 4), (2, 2), (3, 1), (4, 3), (5, 1), (6, 1), (7, 1)] →
        x.length ≠ n → Gives (exec (.frameReceive bytes) s) (withReply k tag kind .range [] s)) ∧
      (∀ g a d, kind = 5 → args = [g, a, d] → 3 < a.toNat →
        Gives (exec (.frameReceive bytes) s) (withReply k tag kind .range [] s)) ∧
      ∀ p m l, kind = 9 → args = [p, m, l] → 2 < m.toNat →
        Gives (exec (.frameReceive bytes) s) (withReply k tag kind .range [] s)

/-- SORT_HOLD sets the sort hold and disarms every ARMED bag, which keeps its target; with the records in order that is
all it does, and no bag is ARMED afterwards; set already, it changes nothing (R194, R160). SORT_RELEASE clears the hold: here
with nothing waiting, with one NORMAL request that is then granted, and with one ROUTED bag that the one loaded chute then arms,
a POOLED chute with no class and an empty cage taking the bag's class (R127); clear already, it changes nothing (R195). All are answered OK. -/
def Obligations.SortHoldDisarmsAndReleases : Prop :=
  ∀ (s : State) (k : Nat) (tag : Byte), Takes s k →
    (s.mgmt.sortHold = true → Gives (exec (.sortHold tag) s) (withReply k tag 10 .ok [] s)) ∧
    (s.mgmt.sortHold = false → (∀ i b, bagAt s i = some b → b.state ≠ .armed) →
      Gives (exec (.sortHold tag) s)
        (withReply k tag 10 .ok [] { s with mgmt := { s.mgmt with sortHold := true } })) ∧
    (s.mgmt.sortHold = false → TablesWf s → ∃ t, exec (.sortHold tag) s = .next t ∧ t.mgmt.sortHold = true ∧
      (∀ i b', bagAt t i = some b' → ∃ b, bagAt s i = some b ∧ b'.edge = b.edge ∧ b'.target = b.target ∧ b'.owned = b.owned) ∧
      ∀ c i b v, c < 32 → i ∈ armedAt s c → bagAt s i = some b → b.divert = some v →
        ∃ b', bagAt t i = some b' ∧ b'.state = .routed ∧ b'.divert = none) ∧
    (s.mgmt.sortHold = false → TablesWf s → Orderly s →
      (∀ i b, bagAt (allDisarmed s) i = some b → b.state ≠ .armed) ∧
      Gives (exec (.sortHold tag) s)
        (withReply k tag 10 .ok [] { allDisarmed s with mgmt := { s.mgmt with sortHold := true } })) ∧
    (s.mgmt.sortHold = false → Gives (exec (.sortRelease tag) s) (withReply k tag 11 .ok [] s)) ∧
    (s.mgmt.sortHold = true →
      let released := { s with mgmt := { s.mgmt with sortHold := false } }
      (s.bags = [] → s.gate.slots = [] → Gives (exec (.sortRelease tag) s) (withReply k tag 11 .ok [] released)) ∧
      (∀ (n a i : Nat) (c : LoopCfg), s.bags = [] → n < 4 → s.gate.slots = [(n, some .normal)] →
        stationAddr s n = some (a, i) → s.tracker.cfg = some c → s.gate.speed = .run → c.vRun ≤ s.tracker.speed →
        s.tracker.state = .tracking → s.gate.drive = .ready → s.gate.inFlight = none → 1 ≤ c.loopLimit →
        Gives (exec (.sortRelease tag) s)
          (withReply k tag 11 .ok [] (bump .inducted (withControl a (.gate i true)
            { released with
              gate := { s.gate with slots := [], inFlight := some { bag := 0, remaining := c.inductTimeout }, pointer := n,
                                    runTimer := none, slowTimer := none }
              bags := [(0, some (newBag n none))] })))) ∧
      ∀ (c cls i e lb : Nat) (r : Chute) (b : Bag) (cfg : LoopCfg), s.gate.slots = [] → s.chutes = [(c, some r)] → c < 32 →
        r.role = .sort → (r.cls = some cls ∨ (r.mode = .pooled ∧ r.cls = none ∧ r.cage.loaded = [])) →
        r.cage.state = .opened → r.cage.loaded.length < r.capacity →
        r.takeaway = none → (playerAt s r.diverter).mode = .auto → s.tracker.state = .tracking →
        s.tracker.cfg = some cfg → s.queues = [] → s.bags = [(i, some b)] → b.state = .routed →
        b.target = some (.sort cls) → b.edge = some e → b.len = some lb →
        let f := firePos r.pos lb (leadOf s.tracker.speed r.leadTime)
        e < f → r.armDist ≤ f - e →
        Gives (exec (.sortRelease tag) s) (withReply k tag 11 .ok []
          { released with
            chutes := [(c, some { r with cls := some cls })]
            queues := [(c, [{ bag := i, rank := none }])]
            bags := [(i, some { b with
              state := .armed
              divert := some (Divert.mk c f (windowOf lb r.margin)
                (if f + r.confirmDist ≤ cfg.len - 1 then .position (f + r.confirmDist) else .count r.confirmDist)) })] }))

/-- The bits of the status summary byte (section 1.8, R19). Counting an event raises the counter named by one, stopping at
65535, and changes nothing else (R197). SNAPSHOT latches the values of its table, sets every counter to 0, clears both sticky
flags, and answers OK with the latched values; the reply's own status summary is built after the clearing (R197). -/
def Obligations.SummaryCountersAndSnapshot : Prop :=
  (∀ s : State,
      (statusSummary s).getLsbD 7 = s.tracker.cfg.isSome ∧
      (statusSummary s).getLsbD 6 = (s.sailing0.walk.isSome || s.sailing1.walk.isSome) ∧
      (statusSummary s).getLsbD 5 = s.mgmt.sortHold ∧
      (statusSummary s).getLsbD 4 = decide (s.tracker.state = .blind) ∧
      (statusSummary s).getLsbD 3 = s.mgmt.reportLost ∧
      (statusSummary s).getLsbD 2 = s.line.controlOverrun ∧
      (statusSummary s).toNat % 4 = speedCode s.gate.speed ∧ (statusSummary s).toNat % 4 ≠ 3) ∧
  (∀ (c d : Counter) (s : State),
    counterOf d (bump c s).mgmt.counters =
      (if d = c then min 65535 (counterOf d s.mgmt.counters + 1) else counterOf d s.mgmt.counters) ∧
    bump c s = { s with mgmt := { s.mgmt with counters := (bump c s).mgmt.counters } }) ∧
  ∀ (s : State) (k : Nat) (tag : Byte), Takes s k →
    let c := s.mgmt.counters
    Gives (exec (.snapshot tag) s)
      (withReply k tag 13 .ok
        (be16 s.tracker.pos ++ be16 s.tracker.speed ++
          [byteOf (match s.tracker.state with | .notReady => 0 | .tracking => 1 | .blind => 2),
            byteOf (speedCode s.gate.speed)] ++
          ([.inducting, .unread, .routed, .armed, .diverting].flatMap fun st =>
            be16 (((liveBags s).filter fun x => decide (x.2.state = st)).length)) ++
          [byteOf s.strays.entries.length, byteOf s.holds.length, byteOf (sailingStateCode s.sailing0.state),
            byteOf (sailingStateCode s.sailing1.state), statusSummary s] ++
          ([c.inducted, c.loaded, c.strayed, c.overflowed, c.loose, c.lost, c.noShows, c.ghosts, c.unattached, c.misreads,
            c.stale, c.overspeed, c.missedDiverts, c.lineErrors, c.transitDrops, c.unknownSources].flatMap be16))
        { s with
          mgmt := { s.mgmt with counters := zeroCounters, reportLost := false }
          line := { s.line with controlOverrun := false } })

/-- The seven queries answer from the state as it stands and change nothing (R196): QUERY CABIN (R100, R99), BAG (R77), CHUTE
(R144), CAGE (R145), STRAY (R191), HOLD (R120) and SAILING (R101), with the ranges each refuses and the layouts of section
11.3: every byte of a BAG, of a CHUTE and of a page of STRAY, HOLD or CAGE, that of an ABSENT cage and of a closed one among
them. How absent fields show, the committed count of a closed cage and the bytes of a free record among them, is the model's
reading (log 21); the bytes and bits the manual leaves open are free values (logs 4, 5, 6, 34, 41). -/
def Obligations.QueriesAnswerAndChangeNothing : Prop :=
  ∀ (s : State) (k : Nat) (tag a b c : Byte) (x : BitVec 16), Takes s k →
    let answers := fun (i : Instr) st res => Gives (exec i s) (withReply k tag 12 st res s)
    let g := sailingAt s a.toNat
    let opt1 := fun (o : Option Nat) => byteOf (o.getD 255)
    let opt2 := fun (o : Option Nat) => be16 (o.getD 65535)
    (∀ i ∈ [Instr.queryCabin tag a b x, .queryBag tag x, .queryChute tag a, .queryCage tag a b c, .queryStray tag a,
      .queryHold tag a, .querySailing tag a], ∃ st res, answers i st res) ∧
    (2 ≤ a.toNat ∨ 2 ≤ b.toNat ∨ (b = 1 ∧ 4096 ≤ x.toNat) → answers (.queryCabin tag a b x) .range []) ∧
    (a.toNat < 2 → (b = 0 ∨ (b = 1 ∧ x.toNat < 4096)) →
      (g.locked = true → answers (.queryCabin tag a b x) .locked (List.replicate 15 0)) ∧
      (g.locked = false → b = 0 → bankFind g.active x.toNat = none →
        answers (.queryCabin tag a b x) .ok (List.replicate 15 0)) ∧
      ∀ p r y, g.locked = false →
        (b = 0 ∧ bankFind g.active x.toNat = some (p, r) ∧ y = g.active) ∨
          (b = 1 ∧ p = x.toNat ∧ r = cabinAt g.staging p ∧ y = g.staging) →
        1 ≤ r.deck → 1 ≤ r.zone →
        answers (.queryCabin tag a b x) .ok
          ([if b = 0 ∨ p < y.count then 1 else 0] ++ be16 p ++ be16 r.number ++
            [byteOf r.deck, byteOf r.zone, byteOf r.expected, byteOf (r.override.getD 255),
              byteOf ((mapClass y r.deck r.zone).getD 255)] ++
            be16 r.seen.toNat ++ be16 r.loaded.toNat ++ [if r.done then 1 else 0])) ∧
    (512 ≤ x.toNat → answers (.queryBag tag x) .range []) ∧
    (x.toNat < 512 →
      (bagAt s x.toNat = none → answers (.queryBag tag x) .ok
        ([0, 0xFF] ++ be16 65535 ++ be16 65535 ++ [0xFF, 0, 0xFF, 0xFF, 0xFF] ++ List.replicate 16 0 ++ List.replicate 4 0 ++
          [0xFF, 0xFF, 0, Config.targetNoneByte, 0xFF] ++ List.replicate 6 0xFF)) ∧
      ∀ y, bagAt s x.toNat = some y → answers (.queryBag tag x) .ok
        ([match y.state with | .inducting => 1 | .unread => 2 | .routed => 3 | .armed => 4 | .diverting => 5,
            opt1 y.station] ++ opt2 y.edge ++ opt2 y.len ++
          [byteOf y.recirc,
            match y.expEye with | some ⟨j, .this⟩ => byteOf j | some ⟨j, .next⟩ => byteOf (j + 0x80) | none => 0,
            byteOf y.misses,
            byteOf ((if y.uncertain then 1 else 0) + (if y.oversize then 2 else 0) +
              (match y.divert.map (·.deadline) with | some (.count _) => 4 | _ => 0) + 8 * Config.bagFlagSpareBits.toNat),
            byteOf y.lastScan.length] ++
          ([0, 1, 2, 3].flatMap fun j => codeBytes ((y.lastScan[j]?).getD 0)) ++ codeBytes ((y.owned.map (·.code)).getD 0) ++
          [opt1 (y.owned.map (·.sailing)), opt1 (y.owned.map (·.deck))] ++
          (match y.target with
            | none => [0, Config.targetNoneByte]
            | some (.sort j) => [1, byteOf j]
            | some (.stray w) => [2, byteOf (reasonCode w)]
            | some (.overflow w) => [3, byteOf (reasonCode w)]) ++
          match y.divert with
            | none => List.replicate 7 0xFF
            | some v => byteOf v.chute :: be16 v.fire ++ be16 v.window ++
              match v.deadline with | .position p => be16 p | .count n => be16 n.toNat)) ∧
    (32 ≤ a.toNat → answers (.queryChute tag a) .range []) ∧
    (a.toNat < 32 → chuteAt s a.toNat = none → answers (.queryChute tag a) .ok (List.replicate 27 0)) ∧
    (∀ r, a.toNat < 32 → chuteAt s a.toNat = some r → answers (.queryChute tag a) .ok
      ([1, match r.role with | .disabled => 0 | .sort => 1 | .stray => 2 | .overflow => 3,
          match r.mode with | .pinned => 0 | .pooled => 1, opt1 r.cls] ++ be16 r.pos ++
        [byteOf r.diverter, opt1 r.takeaway, byteOf r.profile] ++ be16 r.leadTime ++ [byteOf r.margin] ++ be16 r.armDist ++
        be16 r.confirmDist ++ [byteOf r.capacity, byteOf r.cageNode, byteOf (committed s a.toNat),
          if available s a.toNat then 1 else 0] ++
        if r.role = .sort then
          [byteOf (cageStateCode r.cage.state)] ++ opt2 (if r.cage.state = .absent then none else some r.cage.id) ++
            [byteOf r.cage.loaded.length, byteOf r.cage.unknown, if r.cage.sensor then 1 else 0,
              byteOf (causeCode r.cage.cause)]
        else List.replicate 7 0xFF)) ∧
    (2 ≤ a.toNat ∨ 64 ≤ c.toNat ∨ (a = 0 ∧ 32 ≤ b.toNat) ∨ (a = 1 ∧ 8 ≤ b.toNat) →
      answers (.queryCage tag a b c) .range []) ∧
    (a = 0 → b.toNat < 32 → c.toNat < 64 → (∀ r, chuteAt s b.toNat = some r → r.role ≠ .sort) →
      answers (.queryCage tag a b c) .state []) ∧
    (∀ r, a = 0 → b.toNat < 32 → c.toNat < 64 → chuteAt s b.toNat = some r → r.role = .sort →
      let absent := decide (r.cage.state = .absent)
      answers (.queryCage tag a b c) .ok
        ([if absent && !Config.absentCagePresent then 0 else 1, b, byteOf (cageStateCode r.cage.state)] ++
          (if absent then be16 65535 else be16 r.cage.id) ++
          [opt1 r.cls, byteOf r.cage.loaded.length, byteOf r.cage.unknown,
            byteOf ((if r.cage.sensor then 128 else 0) + causeCode r.cage.cause), byteOf (committed s b.toNat), c,
            byteOf (min 11 (r.cage.loaded.length - c.toNat))] ++
          ((r.cage.loaded.drop c.toNat).take 11).flatMap codeBytes)) ∧
    (a = 1 → b.toNat < 8 → c.toNat < 64 → s.closedCages[b.toNat]? = none →
      answers (.queryCage tag a b c) .ok (List.replicate 12 0)) ∧
    (∀ h, a = 1 → b.toNat < 8 → c.toNat < 64 → s.closedCages[b.toNat]? = some h →
      answers (.queryCage tag a b c) .ok
        ([1, byteOf h.chute, 3] ++ be16 h.id ++
          [opt1 h.cls, byteOf h.loaded.length, byteOf h.unknown,
            byteOf ((if Config.closedCageSensorBit then 128 else 0) + causeCode h.cause), 0xFF, c,
            byteOf (min 11 (h.loaded.length - c.toNat))] ++
          ((h.loaded.drop c.toNat).take 11).flatMap codeBytes)) ∧
    (64 ≤ a.toNat → answers (.queryStray tag a) .range []) ∧
    (a.toNat < 64 → s.strays.entries.length ≤ a.toNat →
      answers (.queryStray tag a) .ok [byteOf s.strays.entries.length, a, 0]) ∧
    (a.toNat < 64 → answers (.queryStray tag a) .ok
      ([byteOf s.strays.entries.length, a, byteOf (min 2 (s.strays.entries.length - a.toNat))] ++
        ((s.strays.entries.drop a.toNat).take 2).flatMap fun e =>
          be16 e.slot ++
          [byteOf (reasonCode e.reason + 16 * Config.strayStateSpareBit.toNat + match e.keyed with
            | some o => 128 + 64 * o.sailing + (if o.code ∈ s.holds then 32 else 0)
            | none => 32 * Config.waitingStrayBits.toNat)] ++
          be16 (8192 * e.codes.length + 2048 * Config.strayWordSpareBits.toNat + e.len) ++ codeBytes ((e.keyed.map (·.code)).getD 0) ++
          [match e.keyed with | some _ => byteOf (s.strays.keyedOrder.idxOf e.slot) | none => 0xFF] ++
          e.codes.flatMap codeBytes)) ∧
    (32 ≤ a.toNat → answers (.queryHold tag a) .range []) ∧
    (a.toNat < 32 → answers (.queryHold tag a) .ok
      ([byteOf s.holds.length, a, byteOf (min 12 (s.holds.length - a.toNat))] ++
        ((s.holds.drop a.toNat).take 12).flatMap codeBytes)) ∧
    (2 ≤ a.toNat → answers (.querySailing tag a) .range []) ∧
    (a.toNat < 2 → answers (.querySailing tag a) .ok
      ([byteOf (sailingStateCode g.state), byteOf (g.code.getD 0), byteOf (g.closedDecks.toNat / 65536),
          byteOf (g.closedDecks.toNat / 256), byteOf g.closedDecks.toNat, if g.locked then 1 else 0,
          if g.walk.isSome then 1 else 0, if (g.walk.map (·.carrying)).getD false then 1 else 0] ++
        be16 ((g.walk.bind (·.cursor)).getD 0) ++ be16 g.active.count ++ [byteOf g.staging.code] ++ be16 g.staging.count ++
        be16 ((g.active.recs.filter fun e => decide (e.1 < g.active.count) && e.2.done).length)))

/-! ### The manifest -/

/-- LOAD is all or nothing (R84): it is refused with a status other than OK and writes nothing, or it is answered OK. The format
comes first: RANGE where the section count is outside 1 to 4, a header names no table, a section that uses the sailing byte names
no sailing, or the bytes after the headers are not the records the headers count (R18; with the headers themselves cut short,
log 44). A LOAD of one section of CABIN records, of MAP entries or of a SAILCODE record makes its checks in order, RANGE before
BUSY, and otherwise writes all its records into the STAGING bank of the sailing it names and nothing else, the tallies zeroed
(R85, R86); a section of count 0 passes and writes nothing (R84; while the sailing is commit-busy too, which is the model's choice
against R91's "any", log 45). One with a MAP and a SAILCODE section checks both, the first one
first, before it writes either, and then writes both. The other tables are LoadsOfOtherTables. -/
def Obligations.LoadChecksThenWrites : Prop :=
  ∀ (s : State) (k : Nat) (tag : Byte), Takes s k →
    let answers := fun (args : List Byte) st t => Gives (exec (.load tag args) s) (withReply k tag 1 st [] t)
    (∀ args, (∃ st, st ≠ .ok ∧ answers args st s) ∨
      ∃ t u, exec (.load tag args) s = .next t ∧ t.still = (withReply k tag 1 .ok [] u).still) ∧
    (answers [] .range s ∧
      ∀ (n : Byte) (rest : List Byte), n = 0 ∨ 4 < n.toNat ∨ rest.length < 6 * n.toNat → answers (n :: rest) .range s) ∧
    (∀ (n : Byte) (headers records : List Byte), 1 ≤ n.toNat → n.toNat ≤ 4 → headers.length = 6 * n.toNat →
      let size := fun j => [0, 6, 1, 3, 42, 6, 17, 49, 2].getD (byteAt headers (6 * j)) 0
      (∃ j < n.toNat, byteAt headers (6 * j) = 0 ∨ 8 < byteAt headers (6 * j) ∨
          (byteAt headers (6 * j) ≤ 3 ∧ 1 < byteAt headers (6 * j + 1))) ∨
        records.length ≠ ((List.range n.toNat).map fun j => word headers (6 * j + 4) * size j).sum →
      answers (n :: headers ++ records) .range s) ∧
    ∀ (g fh fl : Byte), g.toNat < 2 →
      let first := nat16 fh fl
      let old := sailingAt s g.toNat
      let staged := fun (b : Bank) => setSailing g.toNat { old with staging := b } s
      let gives := fun (table ch cl : Byte) (records : List (List Byte)) st t =>
        answers ([1, table, g, fh, fl, ch, cl] ++ records.flatten) st t
      (∀ table, table = 1 ∨ table = 2 ∨ table = 3 → gives table 0 0 [] .ok s) ∧
      (∀ (ch cl : Byte) (rs : List (List Byte)), rs ≠ [] → nat16 ch cl = rs.length → (∀ r ∈ rs, r.length = 6) →
        let ok : Prop := first + rs.length ≤ 4096 ∧ ∀ r ∈ rs, 1 ≤ word r 0 ∧ word r 0 ≤ 65534 ∧ 1 ≤ byteAt r 2 ∧
          byteAt r 2 ≤ 20 ∧ 1 ≤ byteAt r 3 ∧ byteAt r 3 ≤ 8 ∧ (byteAt r 5 ≤ 61 ∨ byteAt r 5 = 255)
        let written := fun (r : List Byte) =>
          { number := word r 0, deck := byteAt r 2, zone := byteAt r 3, expected := byteAt r 4 % 16,
            override := if byteAt r 5 = 255 then none else some (byteAt r 5), seen := 0, loaded := 0, done := false : Cabin }
        (¬ok → gives 1 ch cl rs .range s) ∧ (ok → old.walk.isSome = true → gives 1 ch cl rs .busy s) ∧
        (ok → old.walk = none → gives 1 ch cl rs .ok
          (staged { old.staging with
            recs := rs.zipIdx.foldl (fun t x => tablePut blankCabin t (first + x.2) (written x.1)) old.staging.recs }))) ∧
      (∀ (ch cl : Byte) (ms : List Byte), ms ≠ [] → nat16 ch cl = ms.length →
        let ok : Prop := first + ms.length ≤ 160 ∧ ∀ m ∈ ms, m.toNat ≤ 61 ∨ m = 0xFF
        let rs := ms.map fun m => [m]
        (¬ok → gives 2 ch cl rs .range s) ∧ (ok → old.walk.isSome = true → gives 2 ch cl rs .busy s) ∧
        (ok → old.walk = none → gives 2 ch cl rs .ok
          (staged { old.staging with
            map := ms.zipIdx.foldl (fun t x => tablePut none t (first + x.2) (if x.1 = 0xFF then none else some x.1.toNat))
              old.staging.map }))) ∧
      (∀ (ch cl : Byte) (rs : List (List Byte)), 2 ≤ rs.length → nat16 ch cl = rs.length → (∀ r ∈ rs, r.length = 3) →
        gives 3 ch cl rs .range s) ∧
      (∀ c nh nl : Byte,
        let ok : Prop := first = 0 ∧ 1 ≤ c.toNat ∧ c.toNat ≤ 254 ∧ nat16 nh nl ≤ 4096
        (¬ok → gives 3 0 1 [[c, nh, nl]] .range s) ∧ (ok → old.walk.isSome = true → gives 3 0 1 [[c, nh, nl]] .busy s) ∧
        (ok → old.walk = none → gives 3 0 1 [[c, nh, nl]] .ok
          (staged { old.staging with code := c.toNat, count := nat16 nh nl }))) ∧
      ∀ m c nh nl : Byte,
        let two := fun st t =>
          answers [2, 2, g, fh, fl, 0, 1, 3, g, 0, 0, 0, 1, m, c, nh, nl] st t
        let okMap : Prop := first < 160 ∧ (m.toNat ≤ 61 ∨ m = 0xFF)
        let okCode : Prop := 1 ≤ c.toNat ∧ c.toNat ≤ 254 ∧ nat16 nh nl ≤ 4096
        (¬okMap → two .range s) ∧ (okMap → old.walk.isSome = true → two .busy s) ∧
        (okMap → ¬okCode → old.walk = none → two .range s) ∧
        (okMap → okCode → old.walk = none → two .ok (staged
          { old.staging with
            map := tablePut none old.staging.map first (if m = 0xFF then none else some m.toNat)
            code := c.toNat, count := nat16 nh nl }))

/-- A LOAD of one record of each of the five other tables makes its checks in order and otherwise writes that record (R84).
LOOP (R20, R21, R22): ranges, no live bag and no KEYED entry, chute positions; the configuration replaced, P and the history taken
modulo the new length on a reload, an idle loop's timer started with the new time (R53); here with no request waiting. NODES
(R10), over entries that meet R10 (as in Orderly): a record that is no entry's is RANGE, a table with two of one thing CONFLICT;
a NONE record, its slots 0xFF here (log 18), empties the entry. CHUTE (R123, R124): ranges, the loop length, a chute with a cage
or a committed bag STATE, positions and players unique; a chute that is not SORT keeps its capacity and cage node bytes as
written (log 25); here with no bag on the loop. PROFILE (R166): ranges, a profile in play STATE; segments beyond the count are
not stored. PLAYERMAP (R167): address up to 126 and not the part's, a player not OFF STATE. -/
def Obligations.LoadsOfOtherTables : Prop :=
  ∀ (s : State) (k : Nat) (tag x : Byte), Takes s k →
    let gives := fun (table : Byte) (r : List Byte) st t =>
      Gives (exec (.load tag ([1, table, 0, 0, x, 0, 1] ++ r)) s) (withReply k tag 1 st [] t)
    (∀ r : List Byte, r.length = 42 →
      let c := loopRecord r
      let free : Prop := (∀ i b, (i, some b) ∉ s.bags) ∧ ∀ e ∈ s.strays.entries, e.keyed = none
      let fits : Prop := ∀ i u, (i, some u) ∈ s.chutes → 4096 ≤ u.pos ∧ u.pos + 1024 ≤ c.len
      (x ≠ 0 ∨ ¬LoopInRange c → gives 4 r .range s) ∧
      (x = 0 → LoopInRange c → ¬free → gives 4 r .state s) ∧
      (x = 0 → LoopInRange c → free → ¬fits → gives 4 r .conflict s) ∧
      (x = 0 → LoopInRange c → free → fits → s.gate.slots = [] →
        gives 4 r .ok
          { s with
            tracker :=
              if s.tracker.cfg = none then { s.tracker with cfg := some c }
              else { s.tracker with cfg := some c, pos := s.tracker.pos % c.len,
                                    history := s.tracker.history.map fun h => { h with pos := h.pos % c.len } }
            gate := match s.gate.speed with
              | .run => { s.gate with runTimer := some c.runIdle }
              | .slow => { s.gate with slowTimer := some c.slowIdle }
              | .standby => s.gate })) ∧
    ((∀ i e, (i, some e) ∈ s.nodes → NodeOk s.line.nodeAddr e) →
      (∀ r : List Byte, r.length = 6 →
        64 ≤ x.toNat ∨ ((∀ e, NodeOk s.line.nodeAddr e → nodeRecord e ≠ r) ∧ r.drop 1 ≠ [0, 0xFF, 0xFF, 0xFF, 0xFF]) →
        gives 5 r .range s) ∧
      ∀ (o : Option NodeEntry) (r : List Byte), x.toNat < 64 →
        (match o with
          | some e => NodeOk s.line.nodeAddr e ∧ r = nodeRecord e
          | none => ∃ a, r = [a, 0, 0xFF, 0xFF, 0xFF, 0xFF]) →
        let t := tablePut none s.nodes x.toNat o
        (¬NodesDistinct t → gives 5 r .conflict s) ∧ (NodesDistinct t → gives 5 r .ok { s with nodes := t })) ∧
    (∀ r : List Byte, r.length = 17 →
      let u := chuteRecord r
      let t := tablePut none s.chutes x.toNat (some u)
      let fits : Prop := ∀ c, s.tracker.cfg = some c → u.pos + 1024 ≤ c.len
      let free : Prop := (∀ w, chuteAt s x.toNat = some w → w.cage.state = .absent) ∧ committed s x.toNat = 0
      let unique : Prop := ((t.filterMap Prod.snd).map (·.pos)).Nodup ∧
        ((t.filterMap Prod.snd).flatMap fun w => w.diverter :: w.takeaway.toList).Nodup
      (32 ≤ x.toNat ∨ ¬ChuteInRange r → gives 6 r .range s) ∧
      (x.toNat < 32 → ChuteInRange r → ¬fits → gives 6 r .conflict s) ∧
      (x.toNat < 32 → ChuteInRange r → fits → ¬free → gives 6 r .state s) ∧
      (x.toNat < 32 → ChuteInRange r → fits → free → ¬unique → gives 6 r .conflict s) ∧
      (x.toNat < 32 → ChuteInRange r → fits → free → unique → s.bags = [] → gives 6 r .ok { s with chutes := t })) ∧
    (∀ r : List Byte, r.length = 49 →
      let ok : Prop := x.toNat < 16 ∧ byteAt r 0 ≤ 8 ∧ ∀ j < byteAt r 0, SegmentInRange r j
      let used : Prop := ∃ p < 40, ((playerAt s p).play.map (·.fire.profile) = some x.toNat) ∨
        (playerAt s p).pending.map (·.profile) = some x.toNat
      (¬ok → gives 7 r .range s) ∧ (ok → used → gives 7 r .state s) ∧
      (ok → ¬used → gives 7 r .ok { s with players := { s.players with
        profiles := tablePut [] s.players.profiles x.toNat ((List.range (byteAt r 0)).map (segmentRecord r)) } })) ∧
    ∀ a n : Byte,
      let ok : Prop := x.toNat < 40 ∧ a.toNat ≤ 126 ∧ a.toNat ≠ s.line.nodeAddr
      let p := playerAt s x.toNat
      (¬ok → gives 8 [a, n] .range s) ∧ (ok → p.mode ≠ .off → gives 8 [a, n] .state s) ∧
      (ok → p.mode = .off → gives 8 [a, n] .ok { s with players := { s.players with
        players := tablePut resetPlayer s.players.players x.toNat
          { p with node := if a = 0 then none else some a.toNat, actuator := n.toNat } } })

/-- The bank checksum: with it the byte sum of the code, the count, the records within the count and the map comes to 0
modulo 2^32 (R87). COMMIT's checks in order (R88): the index, commit-busy, the checksum, the order of the cabin numbers, the
ranges, the code; one that passes starts the walk: cursor none, carrying when the two banks' codes are equal, its reply slot
EXECUTING (R89). -/
def Obligations.CommitChecksThenWalks : Prop :=
  ∀ (s : State) (k : Nat) (tag g : Byte) (x : BitVec 32), Takes s k →
    let refused := fun st => Gives (exec (.commit tag g x) s) (withReply k tag 2 st [] s)
    let old := sailingAt s g.toNat
    let other := if g.toNat = 0 then s.sailing1 else s.sailing0
    let b := old.staging
    (∀ y : Bank, bankChecksum y + BitVec.ofNat 32 (([y.code, y.count / 256, y.count % 256] ++
      ((List.range y.count).flatMap fun p =>
        let r := cabinAt y p
        [r.number / 256, r.number % 256, r.deck, r.zone, r.expected, r.override.getD 255]) ++
      (List.range 160).map fun e => (tableGet none y.map e).getD 255).sum) = 0) ∧
    (2 ≤ g.toNat → refused .range) ∧
    (g.toNat < 2 → old.walk.isSome = true → refused .busy) ∧
    (g.toNat < 2 → old.walk = none → bankChecksum b ≠ x → refused .checksum) ∧
    (g.toNat < 2 → old.walk = none → bankChecksum b = x →
      let ordered : Prop := ∀ p, p + 1 < b.count → (cabinAt b p).number < (cabinAt b (p + 1)).number
      let ranged : Prop := (∀ p < b.count, 1 ≤ (cabinAt b p).deck ∧ (cabinAt b p).deck ≤ 20 ∧ 1 ≤ (cabinAt b p).zone ∧
          (cabinAt b p).zone ≤ 8 ∧ ∀ c, (cabinAt b p).override = some c → c ≤ 61) ∧
        (∀ e < 160, ∀ c, tableGet none b.map e = some c → c ≤ 61) ∧ b.count ≤ 4096
      let free : Prop := 1 ≤ b.code ∧ b.code ≤ 254 ∧ (other.state = .empty ∨ other.code ≠ some b.code) ∧
        (other.walk = none ∨ other.staging.code ≠ b.code)
      (¬ordered → refused .order) ∧ (ordered → ¬ranged → refused .range) ∧
      (ordered → ranged → ¬free → refused .conflict) ∧
      (ordered → ranged → free →
        Gives (exec (.commit tag g x) s)
          { setSailing g.toNat { old with walk := some (Walk.mk none (decide (old.active.code = b.code)) 0 [] k) } s with
            line := { s.line with slots := tablePut .free s.line.slots k (.executing tag 2) } }))

/-- A step of the walk carries the tally of the cabin over, cabin-done not into a record that expects no bags, or makes the record
fresh with an empty tally; the cursor becomes its number (R89). With no walk, or no record left, the row
does nothing, and so the swap with records left (the model's convention, log 37). The
swap of a walk with every record stepped exchanges the banks, the old one with count 0, ends the walk, opens an EMPTY sailing
and answers OK (R92); a fresh record keeps no serial that has no owner, and a ROUTED bag of the sailing whose code the new bank
no longer resolves is given STRAY(NO_MATCH) (R93). -/
def Obligations.CommitStepsAndSwaps : Prop :=
  ∀ (s : State) (i : Nat), s.resetLow = false → i < 2 →
    let g := sailingAt s i
    (g.walk = none → Gives (exec (.commitStep i) s) s ∧ Gives (exec (.commitSwap i) s) s) ∧
    ∀ w, g.walk = some w →
      let r := cabinAt g.staging w.next
      let stepped := fun (x : Cabin) (fresh : List Nat) => setSailing i
        { g with
          staging := { g.staging with recs := tablePut blankCabin g.staging.recs w.next x }
          walk := some { w with cursor := some r.number, next := w.next + 1, fresh := fresh } } s
      (g.staging.count ≤ w.next → Gives (exec (.commitStep i) s) s) ∧
      (w.next < g.staging.count →
        Gives (exec (.commitSwap i) s) s ∧
        (∀ p a, w.carrying = true → bankFind g.active r.number = some (p, a) →
          Gives (exec (.commitStep i) s) (stepped
            { r with seen := a.seen, loaded := a.loaded, done := if r.expected = 0 then false else a.done } w.fresh)) ∧
        (w.carrying = false ∨ bankFind g.active r.number = none →
          Gives (exec (.commitStep i) s) (stepped { r with seen := 0, loaded := 0, done := false } (w.fresh ++ [w.next])))) ∧
      ∀ tag, g.staging.count ≤ w.next → tableGet Slot.free s.line.slots w.slot = .executing tag 2 → s.strays.entries = [] →
        let swapped := fun (b : Bank) => setSailing i
          { g with state := if g.state = .empty then .opened else g.state, code := some b.code, walk := none, active := b,
                   staging := { g.active with count := 0 } } s
        (w.fresh = [] → s.bags = [] →
          Gives (exec (.commitSwap i) s) (withReply w.slot tag 2 .ok [] (swapped g.staging))) ∧
        (∀ p, w.fresh = [p] → s.bags = [] →
          Gives (exec (.commitSwap i) s) (withReply w.slot tag 2 .ok [] (swapped { g.staging with
            recs := tablePut blankCabin g.staging.recs p { cabinAt g.staging p with seen := 0 } }))) ∧
        ∀ j b o k, w.fresh = [] → s.mgmt.sortHold = true → s.bags = [(j, some b)] → b.owned = some o → o.sailing = i →
          b.state = .routed → b.target = some (.sort k) →
          g.staging.code ≠ sailingField o.code ∨ bankFind g.staging (cabinField o.code) = none →
          Gives (exec (.commitSwap i) s) (withReply w.slot tag 2 .ok []
            { swapped g.staging with bags := [(j, some { b with target := some (.stray .noMatch) })] })

/-- DISCARD empties a sailing's STAGING bank unless it is commit-busy (R95); ERASE empties a sailing that is not commit-busy, not
OPEN and owned by no bag and no KEYED entry (R96); LOCK sets the read lock in any state (R99). An index other than 0 or 1 is
RANGE. -/
def Obligations.DiscardEraseAndLock : Prop :=
  ∀ (s : State) (k : Nat) (tag g : Byte), Takes s k →
    let old := sailingAt s g.toNat
    let done := fun kind st t => withReply k tag kind st [] t
    (2 ≤ g.toNat → Gives (exec (.discard tag g) s) (done 3 .range s) ∧ Gives (exec (.erase tag g) s) (done 4 .range s) ∧
      Gives (exec (.lock tag g) s) (done 6 .range s)) ∧
    (g.toNat < 2 →
      (old.walk.isSome = true →
        Gives (exec (.discard tag g) s) (done 3 .busy s) ∧ Gives (exec (.erase tag g) s) (done 4 .busy s)) ∧
      (old.walk = none → Gives (exec (.discard tag g) s) (done 3 .ok (setSailing g.toNat
        { old with staging := { code := 0, count := 0, recs := [], map := [] } } s))) ∧
      (old.walk = none →
        let owned : Prop := (∃ i b, (i, some b) ∈ s.bags ∧ b.owned.map (·.sailing) = some g.toNat) ∨
          ∃ e ∈ s.strays.entries, e.keyed.map (·.sailing) = some g.toNat
        (old.state = .opened ∨ owned → Gives (exec (.erase tag g) s) (done 4 .state s)) ∧
        (old.state ≠ .opened → ¬owned → Gives (exec (.erase tag g) s) (done 4 .ok (setSailing g.toNat
          { state := .empty, code := none, closedDecks := 0, locked := false, walk := none,
            active := { code := 0, count := 0, recs := [], map := [] },
            staging := { code := 0, count := 0, recs := [], map := [] } } s)))) ∧
      Gives (exec (.lock tag g) s) (done 6 .ok (setSailing g.toNat { old with locked := true } s)))

/-- The SAILING actions (R97): RANGE for an index above 1 or a deck outside 1 to 20, STATE in the states the table refuses, and
otherwise the state and the closed decks it gives; and the closure of R98: a ROUTED bag that owns a code of the sailing on a
newly closed deck, with a SORT target, is given STRAY(CLOSED), here the one bag on the loop with the sort hold set. -/
def Obligations.SailingActionsCloseAndOpen : Prop :=
  ∀ (s : State) (k : Nat) (tag g d : Byte), Takes s k →
    let old := sailingAt s g.toNat
    let deck : List Instr := [.closeDeck tag g d, .reopenDeck tag g d]
    let whole : List Instr := [.closeSailing tag g d, .openSailing tag g d]
    let done := fun i st t => Gives (exec i s) (withReply k tag 5 st [] t)
    let put := fun st (decks : DeckSet) (t : State) => setSailing g.toNat { old with state := st, closedDecks := decks } t
    (2 ≤ g.toNat → ∀ i ∈ deck ++ whole, done i .range s) ∧
    (d.toNat < 1 ∨ 20 < d.toNat → ∀ i ∈ deck, done i .range s) ∧
    (g.toNat < 2 → old.state = .empty → (1 ≤ d.toNat → d.toNat ≤ 20 → ∀ i ∈ deck, done i .state s) ∧
      ∀ i ∈ whole, done i .state s) ∧
    (g.toNat < 2 → old.state = .closed → (1 ≤ d.toNat → d.toNat ≤ 20 → ∀ i ∈ deck, done i .state s) ∧
      done (.closeSailing tag g d) .state s ∧ done (.openSailing tag g d) .ok (put .opened 0 s)) ∧
    (g.toNat < 2 → old.state = .opened →
      done (.openSailing tag g d) .state s ∧
      (1 ≤ d.toNat → d.toNat ≤ 20 →
        done (.reopenDeck tag g d) .ok (put .opened (old.closedDecks &&& ~~~ (1#24 <<< (d.toNat - 1))) s) ∧
        (hasDeck old.closedDecks d.toNat = true → done (.closeDeck tag g d) .ok s)) ∧
      (s.bags = [] →
        (1 ≤ d.toNat → d.toNat ≤ 20 → hasDeck old.closedDecks d.toNat = false →
          done (.closeDeck tag g d) .ok (put .opened (old.closedDecks ||| 1#24 <<< (d.toNat - 1)) s)) ∧
        done (.closeSailing tag g d) .ok (put .closed 0x0FFFFF s)) ∧
      ∀ i b o c, s.mgmt.sortHold = true → s.bags = [(i, some b)] → b.owned = some o → o.sailing = g.toNat → 1 ≤ o.deck →
        o.deck ≤ 20 → b.state = .routed → b.target = some (.sort c) → hasDeck old.closedDecks o.deck = false →
        let strayed := { s with bags := [(i, some { b with target := some (.stray .closed) })] }
        (d.toNat = o.deck →
          done (.closeDeck tag g d) .ok (put .opened (old.closedDecks ||| 1#24 <<< (d.toNat - 1)) strayed)) ∧
        done (.closeSailing tag g d) .ok (put .closed 0x0FFFFF strayed))

/-! ### The bench and RESTART -/

/-- KEYIN's tests in order, each with its acknowledgement to the sender with the slot as carried (R184, R187): NO_SLOT, REJECTED,
BAD_CODE, ALREADY, NO_MATCH, DUPLICATE, ACCEPTED. An acceptance sets the serial seen, keys the entry and puts it at the tail
of the keyed order (R185); a rejection removes the entry, a KEYED one's serial leaving the seen set (R186), here with the
sort hold set, so that no offer follows. -/
def Obligations.KeyinTestsInOrder : Prop :=
  ∀ (s : State) (src : Byte) (n : BitVec 16) (x : TagCode) (ids : List (Option StationId)),
    Attributed s src (.station ids) → (∃ d, some d ∈ ids ∧ d.type = .encode) →
    let acked := fun st (t : State) => withControl src.toNat (.keyinAck n st) t
    let code := fun st t => Gives (exec (.keyinCode src n x) s) (acked st t)
    let withRec := fun p (y : Cabin) =>
      { s.sailing0 with active := { s.sailing0.active with recs := tablePut blankCabin s.sailing0.active.recs p y } }
    ((∀ e ∈ s.strays.entries, e.slot ≠ n.toNat) →
      code .noSlot s ∧ Gives (exec (.keyinReject src n) s) (acked .noSlot s)) ∧
    ∀ es1 e es2, s.strays.entries = es1 ++ e :: es2 → e.slot = n.toNat → (∀ y ∈ es1 ++ es2, y.slot ≠ n.toNat) →
      (wellFormedCode x = false → code .badCode (bump .misreads s)) ∧
      (wellFormedCode x = true → e.keyed.isSome = true → code .already s) ∧
      (wellFormedCode x = true → e.keyed = none → sailingLookup s x = none → code .noMatch s) ∧
      (∀ g, wellFormedCode x = true → e.keyed = none → sailingLookup s x = some g → cabinLookup s g x = none →
        code .noMatch s) ∧
      (∀ g p r, wellFormedCode x = true → e.keyed = none → sailingLookup s x = some g → cabinLookup s g x = some (p, r) →
        hasSerial r.seen (serialField x) = true → code .duplicate s) ∧
      (∀ p r, wellFormedCode x = true → e.keyed = none → sailingLookup s x = some 0 → cabinLookup s 0 x = some (p, r) →
        hasSerial r.seen (serialField x) = false → s.sailing0.walk = none →
        code .accepted
          { s with
            sailing0 := withRec p { r with seen := r.seen ||| serialBit (serialField x) }
            strays :=
              { s.strays with
                entries := es1 ++ { e with keyed := some { code := x, sailing := 0, deck := r.deck } } :: es2
                keyedOrder := s.strays.keyedOrder ++ [e.slot] } }) ∧
      (s.mgmt.sortHold = true →
        let gone := { s.strays with entries := es1 ++ es2, keyedOrder := s.strays.keyedOrder.filter (· ≠ e.slot) }
        (e.keyed = none → Gives (exec (.keyinReject src n) s) (acked .rejected { s with strays := gone })) ∧
        ∀ o p r, e.keyed = some o → o.sailing = 0 → cabinLookup s 0 o.code = some (p, r) → s.sailing0.walk = none →
          Gives (exec (.keyinReject src n) s) (acked .rejected
            { s with
              strays := gone
              sailing0 := withRec p { r with seen := r.seen &&& ~~~ serialBit (serialField o.code) } }))

/-- RESTART lets go of bags, measurements, fire queues, plays, cages, strays and walks and keeps tables, modes, holds, counters and
reports, the transit queue, its run count and CONTROL_OVERRUN (R199 with R12, R16, R23, R57, R76, R94, R114, R143, R163, R178,
R190). Its control frames join the control queue behind what it holds (R12): SPEED STANDBY while a DRIVE entry exists, CAGESIG
CLOSED by chute, LEVEL 0 by player (R199). Each walk abandoned is answered ABANDONED, sailing 0's first: the order of the two,
and that these replies show the tracker and the gate already restarted, are the model's reading (log 24). With no ACTIVE record
RESTART is answered OK in its own event, behind them (R200), and otherwise its slot stays EXECUTING while the sweep stands at
the first record. A sweep step makes one record's
seen set its loaded set and moves on (R102). The completion answers OK once the sweep is done (R200). Without their
condition the two rows do nothing (the model's convention, log 37). -/
def Obligations.RestartSweepsAndCompletes : Prop :=
  (∀ (s : State) (k : Nat) (tag : Byte), Takes s k → TablesWf s → ∃ t, exec (.restart tag) s = .next t ∧
    t.bags = [] ∧ t.loopMeas = [] ∧ t.queues = [] ∧ t.closedCages = [] ∧
    t.tracker = { resetTracker with cfg := s.tracker.cfg } ∧ t.gate = { resetGate with drive := s.gate.drive } ∧
    t.strays = { entries := [], keyedOrder := [], nextSlot := s.strays.nextSlot } ∧
    t.sailing0 = { s.sailing0 with walk := none } ∧ t.sailing1 = { s.sailing1 with walk := none } ∧
    (∀ c < 32, chuteAt t c = (chuteAt s c).map fun r =>
      { r with cage := absentCage, cls := if r.mode = .pooled then none else r.cls }) ∧
    (∀ p < 40, playerAt t p = { playerAt s p with play := none, pending := none }) ∧
    t.players.profiles = s.players.profiles ∧ t.players.lines = [] ∧ t.nodes = s.nodes ∧ t.holds = s.holds ∧
    t.mgmt.reports = s.mgmt.reports ∧ t.mgmt.counters = s.mgmt.counters ∧ t.mgmt.sortHold = s.mgmt.sortHold ∧
    t.mgmt.reportLost = s.mgmt.reportLost ∧ t.line.transit = s.line.transit ∧ t.line.nodeAddr = s.line.nodeAddr ∧
    (s.sailing0.active.count = 0 → s.sailing1.active.count = 0 → t.mgmt.restart = none) ∧
    (0 < s.sailing0.active.count → t.mgmt.restart = some { slot := k, sweep := some (0, 0) }) ∧
    (s.sailing0.active.count = 0 → 0 < s.sailing1.active.count →
      t.mgmt.restart = some { slot := k, sweep := some (1, 0) }) ∧
    ((∀ w, s.sailing0.walk = some w ∨ s.sailing1.walk = some w → w.slot ≠ k) →
      if s.sailing0.active.count = 0 ∧ s.sailing1.active.count = 0 then
        ∃ r, tableGet Slot.free t.line.slots k = .ready r ∧ r.tag = tag ∧ r.kind = 14 ∧ r.status = .ok ∧ r.results = [] ∧
          r.summary = statusSummary t
      else tableGet Slot.free t.line.slots k = .executing tag 14) ∧
    (let frames : List CtrlFrame :=
        ((driveAddr s).toList.map fun a => { dest := a, msg := .speed .standby }) ++
        ((List.range 32).filterMap fun c => (chuteAt s c).bind fun r =>
          if r.role = .sort ∧ r.cage.state ≠ .absent then some { dest := r.cageNode, msg := .cagesig .closed } else none) ++
        ((List.range 40).filterMap fun p =>
          match playerAt s p with
          | { node := some n, actuator := a, play := some _, .. } => some { dest := n, msg := .level a 0 0 }
          | _ => none)
      let u := frames.foldl (fun v f => withControl f.dest f.msg v) s
      t.line.control = u.line.control ∧ t.line.controlOverrun = u.line.controlOverrun) ∧
    (s.line.sending.isSome = true → t.line.sending = s.line.sending ∧ t.line.runCount = s.line.runCount) ∧
    (let walks := s.sailing0.walk.toList ++ s.sailing1.walk.toList
      let slots := walks.map (·.slot)
      slots.Nodup → (∀ w ∈ walks, ∃ x, tableGet Slot.free s.line.slots w.slot = .executing x 2) →
      t.line.readyOrder = s.line.readyOrder ++ slots ++
        (if s.sailing0.active.count = 0 ∧ s.sailing1.active.count = 0 then [k] else []) ∧
      ∀ w ∈ walks, ∀ x, tableGet Slot.free s.line.slots w.slot = .executing x 2 →
        ∃ r, tableGet Slot.free t.line.slots w.slot = .ready r ∧ r.tag = x ∧ r.kind = 2 ∧ r.status = .abandoned ∧
          r.results = [] ∧ r.summary.getLsbD 4 = false ∧ r.summary.toNat % 4 = speedCode .standby ∧
          (walks = [w] → r.summary.getLsbD 6 = false))) ∧
  ∀ s : State, s.resetLow = false →
    (s.mgmt.restart = none → Gives (exec .restartSweepStep s) s ∧ Gives (exec .restartComplete s) s) ∧
    (∀ k, s.mgmt.restart = some { slot := k, sweep := none } → Gives (exec .restartSweepStep s) s ∧
      ∀ tag, tableGet Slot.free s.line.slots k = .executing tag 14 →
        Gives (exec .restartComplete s) (withReply k tag 14 .ok [] { s with mgmt := { s.mgmt with restart := none } })) ∧
    ∀ k g p, s.mgmt.restart = some { slot := k, sweep := some (g, p) } → g < 2 →
      Gives (exec .restartComplete s) s ∧
      let a := (sailingAt s g).active
      let swept := { a with recs := tablePut blankCabin a.recs p { cabinAt a p with seen := (cabinAt a p).loaded } }
      let next := if p + 1 < a.count then some (g, p + 1)
        else if g = 0 ∧ 0 < s.sailing1.active.count then some (1, 0) else none
      Gives (exec .restartSweepStep s)
        { setSailing g { sailingAt s g with active := swept } s with
          mgmt := { s.mgmt with restart := some { slot := k, sweep := next } } }
end

