-- ==== Sys2Proof/Laws/Tables.lean ====
section
/-! SUPPORT. The laws of numbered tables: what a number holds after a put, and the canonical form. -/

namespace Sys2Proof.Machine

variable {α : Type} [DecidableEq α]

omit [DecidableEq α] in
/-- A number below every number of a table holds the blank contents. -/
theorem tableGet_below (d : α) (t : Table α) (i : Nat) (h : ∀ e ∈ t, i < e.1) : tableGet d t i = d := by
  induction t with
  | nil => rfl
  | cons e r ih =>
    obtain ⟨j, v⟩ := e
    have hj : i < j := h (j, v) (by simp)
    simp only [tableGet]
    rw [if_neg (by omega)]
    exact ih fun e he => h e (by simp [he])

/-- What a number holds after a put: the contents put there, and what it held before elsewhere. The numbers of the
table rise. -/
theorem tableGet_tablePut (d : α) (t : Table α) (i k : Nat) (v : α)
    (h : (t.map Prod.fst).Pairwise (· < ·)) :
    tableGet d (tablePut d t i v) k = if k = i then v else tableGet d t k := by
  induction t with
  | nil => by_cases hv : v = d <;> by_cases hk : k = i <;> simp_all [tablePut, tableGet, eq_comm]
  | cons e r ih =>
    obtain ⟨j, w⟩ := e
    simp only [List.map_cons, List.pairwise_cons, List.mem_map, forall_exists_index, and_imp,
      forall_apply_eq_imp_iff₂] at h
    simp only [tablePut]
    by_cases h1 : i < j
    · rw [if_pos h1]
      by_cases hk : k = i
      · subst hk
        by_cases hv : v = d
        · have hb : tableGet d ((j, w) :: r) k = d := by
            apply tableGet_below
            intro e he
            rcases List.mem_cons.mp he with rfl | he
            · exact h1
            · exact lt_trans h1 (h.1 e he)
          simp [hv, hb]
        · simp [hv, tableGet]
      · by_cases hv : v = d
        · simp [hv, hk]
        · simp [hv, hk, tableGet, Ne.symm hk]
    · rw [if_neg h1]
      by_cases h2 : i = j
      · subst h2
        rw [if_pos rfl]
        by_cases hk : k = i
        · subst hk
          by_cases hv : v = d
          · simp only [hv, if_true]
            exact tableGet_below d r k h.1
          · simp [hv, tableGet]
        · by_cases hv : v = d <;> simp [hv, hk, tableGet, Ne.symm hk]
      · rw [if_neg h2]
        simp only [tableGet]
        by_cases hk : j = k
        · subst hk
          simp [Ne.symm h2]
        · simp only [hk, if_false]
          exact ih h.2

/-- The number put to holds the contents put there. -/
theorem tableGet_put_same (d : α) (t : Table α) (i : Nat) (v : α) (h : (t.map Prod.fst).Pairwise (· < ·)) :
    tableGet d (tablePut d t i v) i = v := by simp [tableGet_tablePut d t i i v h]

/-- Every other number holds what it held. -/
theorem tableGet_put_other (d : α) (t : Table α) (i k : Nat) (v : α) (h : (t.map Prod.fst).Pairwise (· < ·))
    (hk : k ≠ i) : tableGet d (tablePut d t i v) k = tableGet d t k := by
  simp [tableGet_tablePut d t i k v h, hk]

/-- The entries after a put are the one put and entries that stood before. -/
theorem mem_tablePut (d : α) (t : Table α) (i : Nat) (v : α) (e : Nat × α) (h : e ∈ tablePut d t i v) :
    (e = (i, v) ∧ v ≠ d) ∨ e ∈ t := by
  induction t with
  | nil =>
    simp only [tablePut] at h
    split at h
    · simp at h
    · next hv => exact .inl ⟨by simpa using h, hv⟩
  | cons x r ih =>
    obtain ⟨j, w⟩ := x
    simp only [tablePut] at h
    split at h
    · split at h
      · exact .inr h
      · next hv =>
        rcases List.mem_cons.mp h with rfl | h
        · exact .inl ⟨rfl, hv⟩
        · exact .inr h
    · split at h
      · split at h
        · exact .inr (List.mem_cons_of_mem _ h)
        · next hv =>
          rcases List.mem_cons.mp h with rfl | h
          · exact .inl ⟨rfl, hv⟩
          · exact .inr (List.mem_cons_of_mem _ h)
      · rcases List.mem_cons.mp h with rfl | h
        · exact .inr (by simp)
        · rcases ih h with h | h
          · exact .inl h
          · exact .inr (List.mem_cons_of_mem _ h)

/-- A put keeps the numbers rising. -/
theorem tablePut_rising (d : α) (t : Table α) (i : Nat) (v : α) (h : (t.map Prod.fst).Pairwise (· < ·)) :
    ((tablePut d t i v).map Prod.fst).Pairwise (· < ·) := by
  induction t with
  | nil => simp only [tablePut]; split <;> simp
  | cons x r ih =>
    obtain ⟨j, w⟩ := x
    have h' := h
    simp only [List.map_cons, List.pairwise_cons, List.mem_map, forall_exists_index, and_imp,
      forall_apply_eq_imp_iff₂] at h
    simp only [tablePut]
    split
    · next hij =>
      split
      · exact h'
      · simp only [List.map_cons, List.pairwise_cons, List.mem_cons, List.mem_map]
        refine ⟨?_, h.1 |> fun q => ?_, h.2⟩
        · rintro k (rfl | ⟨e, he, rfl⟩)
          · exact hij
          · exact lt_trans hij (h.1 e he)
        · rintro k ⟨e, he, rfl⟩
          exact q e he
    · split
      · next hij =>
        subst hij
        split
        · exact h.2
        · simp only [List.map_cons, List.pairwise_cons, List.mem_map]
          exact ⟨by rintro k ⟨e, he, rfl⟩; exact h.1 e he, h.2⟩
      · next h1 h2 =>
        simp only [List.map_cons, List.pairwise_cons, List.mem_map]
        refine ⟨?_, ih h.2⟩
        rintro k ⟨e, he, rfl⟩
        rcases mem_tablePut d r i v e he with ⟨rfl, -⟩ | he
        · show j < i
          omega
        · exact h.1 e he

/-- A put keeps the canonical form. -/
theorem tablePut_wf (d : α) (t : Table α) (i : Nat) (v : α) (h : TableWf d t) : TableWf d (tablePut d t i v) := by
  refine ⟨tablePut_rising d t i v h.1, ?_⟩
  intro e he
  rcases mem_tablePut d t i v e he with ⟨rfl, hv⟩ | he
  · exact hv
  · exact h.2 e he

omit [DecidableEq α] in
/-- The empty table is in canonical form. -/
theorem nil_wf (d : α) : TableWf d ([] : Table α) := ⟨by simp, by simp⟩

end Sys2Proof.Machine
end

