-- ==== Sys2Proof/Laws/State.lean ====
section
/-! SUPPORT. What each named update of the state leaves in each field. -/

namespace Sys2Proof.Machine

variable (s : State)

/-! ### setBag i o -/

@[simp] theorem setBag_pending (i : Nat) (o : Option Bag) : (setBag i o s).pending = s.pending := rfl

@[simp] theorem setBag_choices (i : Nat) (o : Option Bag) : (setBag i o s).choices = s.choices := rfl

@[simp] theorem setBag_resetLow (i : Nat) (o : Option Bag) : (setBag i o s).resetLow = s.resetLow := rfl

@[simp] theorem setBag_line (i : Nat) (o : Option Bag) : (setBag i o s).line = s.line := rfl

@[simp] theorem setBag_nodes (i : Nat) (o : Option Bag) : (setBag i o s).nodes = s.nodes := rfl

@[simp] theorem setBag_tracker (i : Nat) (o : Option Bag) : (setBag i o s).tracker = s.tracker := rfl

@[simp] theorem setBag_gate (i : Nat) (o : Option Bag) : (setBag i o s).gate = s.gate := rfl

@[simp] theorem setBag_bags (i : Nat) (o : Option Bag) : (setBag i o s).bags = tablePut none s.bags i o := rfl

@[simp] theorem setBag_loopMeas (i : Nat) (o : Option Bag) : (setBag i o s).loopMeas = s.loopMeas := rfl

@[simp] theorem setBag_sailing0 (i : Nat) (o : Option Bag) : (setBag i o s).sailing0 = s.sailing0 := rfl

@[simp] theorem setBag_sailing1 (i : Nat) (o : Option Bag) : (setBag i o s).sailing1 = s.sailing1 := rfl

@[simp] theorem setBag_holds (i : Nat) (o : Option Bag) : (setBag i o s).holds = s.holds := rfl

@[simp] theorem setBag_chutes (i : Nat) (o : Option Bag) : (setBag i o s).chutes = s.chutes := rfl

@[simp] theorem setBag_closedCages (i : Nat) (o : Option Bag) : (setBag i o s).closedCages = s.closedCages := rfl

@[simp] theorem setBag_queues (i : Nat) (o : Option Bag) : (setBag i o s).queues = s.queues := rfl

@[simp] theorem setBag_players (i : Nat) (o : Option Bag) : (setBag i o s).players = s.players := rfl

@[simp] theorem setBag_strays (i : Nat) (o : Option Bag) : (setBag i o s).strays = s.strays := rfl

@[simp] theorem setBag_mgmt (i : Nat) (o : Option Bag) : (setBag i o s).mgmt = s.mgmt := rfl

/-! ### mapBags f -/

@[simp] theorem mapBags_pending (f : Bag → Bag) : (mapBags f s).pending = s.pending := rfl

@[simp] theorem mapBags_choices (f : Bag → Bag) : (mapBags f s).choices = s.choices := rfl

@[simp] theorem mapBags_resetLow (f : Bag → Bag) : (mapBags f s).resetLow = s.resetLow := rfl

@[simp] theorem mapBags_line (f : Bag → Bag) : (mapBags f s).line = s.line := rfl

@[simp] theorem mapBags_nodes (f : Bag → Bag) : (mapBags f s).nodes = s.nodes := rfl

@[simp] theorem mapBags_tracker (f : Bag → Bag) : (mapBags f s).tracker = s.tracker := rfl

@[simp] theorem mapBags_gate (f : Bag → Bag) : (mapBags f s).gate = s.gate := rfl

@[simp] theorem mapBags_bags (f : Bag → Bag) : (mapBags f s).bags = s.bags.map fun (i, o) => (i, o.map f) := rfl

@[simp] theorem mapBags_loopMeas (f : Bag → Bag) : (mapBags f s).loopMeas = s.loopMeas := rfl

@[simp] theorem mapBags_sailing0 (f : Bag → Bag) : (mapBags f s).sailing0 = s.sailing0 := rfl

@[simp] theorem mapBags_sailing1 (f : Bag → Bag) : (mapBags f s).sailing1 = s.sailing1 := rfl

@[simp] theorem mapBags_holds (f : Bag → Bag) : (mapBags f s).holds = s.holds := rfl

@[simp] theorem mapBags_chutes (f : Bag → Bag) : (mapBags f s).chutes = s.chutes := rfl

@[simp] theorem mapBags_closedCages (f : Bag → Bag) : (mapBags f s).closedCages = s.closedCages := rfl

@[simp] theorem mapBags_queues (f : Bag → Bag) : (mapBags f s).queues = s.queues := rfl

@[simp] theorem mapBags_players (f : Bag → Bag) : (mapBags f s).players = s.players := rfl

@[simp] theorem mapBags_strays (f : Bag → Bag) : (mapBags f s).strays = s.strays := rfl

@[simp] theorem mapBags_mgmt (f : Bag → Bag) : (mapBags f s).mgmt = s.mgmt := rfl

/-! ### setChute c r -/

@[simp] theorem setChute_pending (c : Nat) (r : Chute) : (setChute c r s).pending = s.pending := rfl

@[simp] theorem setChute_choices (c : Nat) (r : Chute) : (setChute c r s).choices = s.choices := rfl

@[simp] theorem setChute_resetLow (c : Nat) (r : Chute) : (setChute c r s).resetLow = s.resetLow := rfl

@[simp] theorem setChute_line (c : Nat) (r : Chute) : (setChute c r s).line = s.line := rfl

@[simp] theorem setChute_nodes (c : Nat) (r : Chute) : (setChute c r s).nodes = s.nodes := rfl

@[simp] theorem setChute_tracker (c : Nat) (r : Chute) : (setChute c r s).tracker = s.tracker := rfl

@[simp] theorem setChute_gate (c : Nat) (r : Chute) : (setChute c r s).gate = s.gate := rfl

@[simp] theorem setChute_bags (c : Nat) (r : Chute) : (setChute c r s).bags = s.bags := rfl

@[simp] theorem setChute_loopMeas (c : Nat) (r : Chute) : (setChute c r s).loopMeas = s.loopMeas := rfl

@[simp] theorem setChute_sailing0 (c : Nat) (r : Chute) : (setChute c r s).sailing0 = s.sailing0 := rfl

@[simp] theorem setChute_sailing1 (c : Nat) (r : Chute) : (setChute c r s).sailing1 = s.sailing1 := rfl

@[simp] theorem setChute_holds (c : Nat) (r : Chute) : (setChute c r s).holds = s.holds := rfl

@[simp] theorem setChute_chutes (c : Nat) (r : Chute) : (setChute c r s).chutes = tablePut none s.chutes c (some r) := rfl

@[simp] theorem setChute_closedCages (c : Nat) (r : Chute) : (setChute c r s).closedCages = s.closedCages := rfl

@[simp] theorem setChute_queues (c : Nat) (r : Chute) : (setChute c r s).queues = s.queues := rfl

@[simp] theorem setChute_players (c : Nat) (r : Chute) : (setChute c r s).players = s.players := rfl

@[simp] theorem setChute_strays (c : Nat) (r : Chute) : (setChute c r s).strays = s.strays := rfl

@[simp] theorem setChute_mgmt (c : Nat) (r : Chute) : (setChute c r s).mgmt = s.mgmt := rfl

/-! ### setQueue c q -/

@[simp] theorem setQueue_pending (c : Nat) (q : List QEntry) : (setQueue c q s).pending = s.pending := rfl

@[simp] theorem setQueue_choices (c : Nat) (q : List QEntry) : (setQueue c q s).choices = s.choices := rfl

@[simp] theorem setQueue_resetLow (c : Nat) (q : List QEntry) : (setQueue c q s).resetLow = s.resetLow := rfl

@[simp] theorem setQueue_line (c : Nat) (q : List QEntry) : (setQueue c q s).line = s.line := rfl

@[simp] theorem setQueue_nodes (c : Nat) (q : List QEntry) : (setQueue c q s).nodes = s.nodes := rfl

@[simp] theorem setQueue_tracker (c : Nat) (q : List QEntry) : (setQueue c q s).tracker = s.tracker := rfl

@[simp] theorem setQueue_gate (c : Nat) (q : List QEntry) : (setQueue c q s).gate = s.gate := rfl

@[simp] theorem setQueue_bags (c : Nat) (q : List QEntry) : (setQueue c q s).bags = s.bags := rfl

@[simp] theorem setQueue_loopMeas (c : Nat) (q : List QEntry) : (setQueue c q s).loopMeas = s.loopMeas := rfl

@[simp] theorem setQueue_sailing0 (c : Nat) (q : List QEntry) : (setQueue c q s).sailing0 = s.sailing0 := rfl

@[simp] theorem setQueue_sailing1 (c : Nat) (q : List QEntry) : (setQueue c q s).sailing1 = s.sailing1 := rfl

@[simp] theorem setQueue_holds (c : Nat) (q : List QEntry) : (setQueue c q s).holds = s.holds := rfl

@[simp] theorem setQueue_chutes (c : Nat) (q : List QEntry) : (setQueue c q s).chutes = s.chutes := rfl

@[simp] theorem setQueue_closedCages (c : Nat) (q : List QEntry) : (setQueue c q s).closedCages = s.closedCages := rfl

@[simp] theorem setQueue_queues (c : Nat) (q : List QEntry) : (setQueue c q s).queues = tablePut [] s.queues c q := rfl

@[simp] theorem setQueue_players (c : Nat) (q : List QEntry) : (setQueue c q s).players = s.players := rfl

@[simp] theorem setQueue_strays (c : Nat) (q : List QEntry) : (setQueue c q s).strays = s.strays := rfl

@[simp] theorem setQueue_mgmt (c : Nat) (q : List QEntry) : (setQueue c q s).mgmt = s.mgmt := rfl

/-! ### setPlayer p r -/

@[simp] theorem setPlayer_pending (p : Nat) (r : Player) : (setPlayer p r s).pending = s.pending := rfl

@[simp] theorem setPlayer_choices (p : Nat) (r : Player) : (setPlayer p r s).choices = s.choices := rfl

@[simp] theorem setPlayer_resetLow (p : Nat) (r : Player) : (setPlayer p r s).resetLow = s.resetLow := rfl

@[simp] theorem setPlayer_line (p : Nat) (r : Player) : (setPlayer p r s).line = s.line := rfl

@[simp] theorem setPlayer_nodes (p : Nat) (r : Player) : (setPlayer p r s).nodes = s.nodes := rfl

@[simp] theorem setPlayer_tracker (p : Nat) (r : Player) : (setPlayer p r s).tracker = s.tracker := rfl

@[simp] theorem setPlayer_gate (p : Nat) (r : Player) : (setPlayer p r s).gate = s.gate := rfl

@[simp] theorem setPlayer_bags (p : Nat) (r : Player) : (setPlayer p r s).bags = s.bags := rfl

@[simp] theorem setPlayer_loopMeas (p : Nat) (r : Player) : (setPlayer p r s).loopMeas = s.loopMeas := rfl

@[simp] theorem setPlayer_sailing0 (p : Nat) (r : Player) : (setPlayer p r s).sailing0 = s.sailing0 := rfl

@[simp] theorem setPlayer_sailing1 (p : Nat) (r : Player) : (setPlayer p r s).sailing1 = s.sailing1 := rfl

@[simp] theorem setPlayer_holds (p : Nat) (r : Player) : (setPlayer p r s).holds = s.holds := rfl

@[simp] theorem setPlayer_chutes (p : Nat) (r : Player) : (setPlayer p r s).chutes = s.chutes := rfl

@[simp] theorem setPlayer_closedCages (p : Nat) (r : Player) : (setPlayer p r s).closedCages = s.closedCages := rfl

@[simp] theorem setPlayer_queues (p : Nat) (r : Player) : (setPlayer p r s).queues = s.queues := rfl

@[simp] theorem setPlayer_players (p : Nat) (r : Player) : (setPlayer p r s).players = { s.players with players := tablePut resetPlayer s.players.players p r } := rfl

@[simp] theorem setPlayer_strays (p : Nat) (r : Player) : (setPlayer p r s).strays = s.strays := rfl

@[simp] theorem setPlayer_mgmt (p : Nat) (r : Player) : (setPlayer p r s).mgmt = s.mgmt := rfl

/-! ### setLine l o -/

@[simp] theorem setLine_pending (l : Nat) (o : Option Nat) : (setLine l o s).pending = s.pending := rfl

@[simp] theorem setLine_choices (l : Nat) (o : Option Nat) : (setLine l o s).choices = s.choices := rfl

@[simp] theorem setLine_resetLow (l : Nat) (o : Option Nat) : (setLine l o s).resetLow = s.resetLow := rfl

@[simp] theorem setLine_line (l : Nat) (o : Option Nat) : (setLine l o s).line = s.line := rfl

@[simp] theorem setLine_nodes (l : Nat) (o : Option Nat) : (setLine l o s).nodes = s.nodes := rfl

@[simp] theorem setLine_tracker (l : Nat) (o : Option Nat) : (setLine l o s).tracker = s.tracker := rfl

@[simp] theorem setLine_gate (l : Nat) (o : Option Nat) : (setLine l o s).gate = s.gate := rfl

@[simp] theorem setLine_bags (l : Nat) (o : Option Nat) : (setLine l o s).bags = s.bags := rfl

@[simp] theorem setLine_loopMeas (l : Nat) (o : Option Nat) : (setLine l o s).loopMeas = s.loopMeas := rfl

@[simp] theorem setLine_sailing0 (l : Nat) (o : Option Nat) : (setLine l o s).sailing0 = s.sailing0 := rfl

@[simp] theorem setLine_sailing1 (l : Nat) (o : Option Nat) : (setLine l o s).sailing1 = s.sailing1 := rfl

@[simp] theorem setLine_holds (l : Nat) (o : Option Nat) : (setLine l o s).holds = s.holds := rfl

@[simp] theorem setLine_chutes (l : Nat) (o : Option Nat) : (setLine l o s).chutes = s.chutes := rfl

@[simp] theorem setLine_closedCages (l : Nat) (o : Option Nat) : (setLine l o s).closedCages = s.closedCages := rfl

@[simp] theorem setLine_queues (l : Nat) (o : Option Nat) : (setLine l o s).queues = s.queues := rfl

@[simp] theorem setLine_players (l : Nat) (o : Option Nat) : (setLine l o s).players = { s.players with lines := tablePut none s.players.lines l o } := rfl

@[simp] theorem setLine_strays (l : Nat) (o : Option Nat) : (setLine l o s).strays = s.strays := rfl

@[simp] theorem setLine_mgmt (l : Nat) (o : Option Nat) : (setLine l o s).mgmt = s.mgmt := rfl

/-! ### setMeasure k m -/

@[simp] theorem setMeasure_pending (k : Nat) (m : Option Measure) : (setMeasure k m s).pending = s.pending := rfl

@[simp] theorem setMeasure_choices (k : Nat) (m : Option Measure) : (setMeasure k m s).choices = s.choices := rfl

@[simp] theorem setMeasure_resetLow (k : Nat) (m : Option Measure) : (setMeasure k m s).resetLow = s.resetLow := rfl

@[simp] theorem setMeasure_line (k : Nat) (m : Option Measure) : (setMeasure k m s).line = s.line := rfl

@[simp] theorem setMeasure_nodes (k : Nat) (m : Option Measure) : (setMeasure k m s).nodes = s.nodes := rfl

@[simp] theorem setMeasure_tracker (k : Nat) (m : Option Measure) : (setMeasure k m s).tracker = s.tracker := rfl

@[simp] theorem setMeasure_gate (k : Nat) (m : Option Measure) : (setMeasure k m s).gate = s.gate := rfl

@[simp] theorem setMeasure_bags (k : Nat) (m : Option Measure) : (setMeasure k m s).bags = s.bags := rfl

@[simp] theorem setMeasure_loopMeas (k : Nat) (m : Option Measure) : (setMeasure k m s).loopMeas = tablePut none s.loopMeas k m := rfl

@[simp] theorem setMeasure_sailing0 (k : Nat) (m : Option Measure) : (setMeasure k m s).sailing0 = s.sailing0 := rfl

@[simp] theorem setMeasure_sailing1 (k : Nat) (m : Option Measure) : (setMeasure k m s).sailing1 = s.sailing1 := rfl

@[simp] theorem setMeasure_holds (k : Nat) (m : Option Measure) : (setMeasure k m s).holds = s.holds := rfl

@[simp] theorem setMeasure_chutes (k : Nat) (m : Option Measure) : (setMeasure k m s).chutes = s.chutes := rfl

@[simp] theorem setMeasure_closedCages (k : Nat) (m : Option Measure) : (setMeasure k m s).closedCages = s.closedCages := rfl

@[simp] theorem setMeasure_queues (k : Nat) (m : Option Measure) : (setMeasure k m s).queues = s.queues := rfl

@[simp] theorem setMeasure_players (k : Nat) (m : Option Measure) : (setMeasure k m s).players = s.players := rfl

@[simp] theorem setMeasure_strays (k : Nat) (m : Option Measure) : (setMeasure k m s).strays = s.strays := rfl

@[simp] theorem setMeasure_mgmt (k : Nat) (m : Option Measure) : (setMeasure k m s).mgmt = s.mgmt := rfl

/-! ### withTracker f -/

@[simp] theorem withTracker_pending (f : Tracker → Tracker) : (withTracker f s).pending = s.pending := rfl

@[simp] theorem withTracker_choices (f : Tracker → Tracker) : (withTracker f s).choices = s.choices := rfl

@[simp] theorem withTracker_resetLow (f : Tracker → Tracker) : (withTracker f s).resetLow = s.resetLow := rfl

@[simp] theorem withTracker_line (f : Tracker → Tracker) : (withTracker f s).line = s.line := rfl

@[simp] theorem withTracker_nodes (f : Tracker → Tracker) : (withTracker f s).nodes = s.nodes := rfl

@[simp] theorem withTracker_tracker (f : Tracker → Tracker) : (withTracker f s).tracker = f s.tracker := rfl

@[simp] theorem withTracker_gate (f : Tracker → Tracker) : (withTracker f s).gate = s.gate := rfl

@[simp] theorem withTracker_bags (f : Tracker → Tracker) : (withTracker f s).bags = s.bags := rfl

@[simp] theorem withTracker_loopMeas (f : Tracker → Tracker) : (withTracker f s).loopMeas = s.loopMeas := rfl

@[simp] theorem withTracker_sailing0 (f : Tracker → Tracker) : (withTracker f s).sailing0 = s.sailing0 := rfl

@[simp] theorem withTracker_sailing1 (f : Tracker → Tracker) : (withTracker f s).sailing1 = s.sailing1 := rfl

@[simp] theorem withTracker_holds (f : Tracker → Tracker) : (withTracker f s).holds = s.holds := rfl

@[simp] theorem withTracker_chutes (f : Tracker → Tracker) : (withTracker f s).chutes = s.chutes := rfl

@[simp] theorem withTracker_closedCages (f : Tracker → Tracker) : (withTracker f s).closedCages = s.closedCages := rfl

@[simp] theorem withTracker_queues (f : Tracker → Tracker) : (withTracker f s).queues = s.queues := rfl

@[simp] theorem withTracker_players (f : Tracker → Tracker) : (withTracker f s).players = s.players := rfl

@[simp] theorem withTracker_strays (f : Tracker → Tracker) : (withTracker f s).strays = s.strays := rfl

@[simp] theorem withTracker_mgmt (f : Tracker → Tracker) : (withTracker f s).mgmt = s.mgmt := rfl

/-! ### withGate f -/

@[simp] theorem withGate_pending (f : Gate → Gate) : (withGate f s).pending = s.pending := rfl

@[simp] theorem withGate_choices (f : Gate → Gate) : (withGate f s).choices = s.choices := rfl

@[simp] theorem withGate_resetLow (f : Gate → Gate) : (withGate f s).resetLow = s.resetLow := rfl

@[simp] theorem withGate_line (f : Gate → Gate) : (withGate f s).line = s.line := rfl

@[simp] theorem withGate_nodes (f : Gate → Gate) : (withGate f s).nodes = s.nodes := rfl

@[simp] theorem withGate_tracker (f : Gate → Gate) : (withGate f s).tracker = s.tracker := rfl

@[simp] theorem withGate_gate (f : Gate → Gate) : (withGate f s).gate = f s.gate := rfl

@[simp] theorem withGate_bags (f : Gate → Gate) : (withGate f s).bags = s.bags := rfl

@[simp] theorem withGate_loopMeas (f : Gate → Gate) : (withGate f s).loopMeas = s.loopMeas := rfl

@[simp] theorem withGate_sailing0 (f : Gate → Gate) : (withGate f s).sailing0 = s.sailing0 := rfl

@[simp] theorem withGate_sailing1 (f : Gate → Gate) : (withGate f s).sailing1 = s.sailing1 := rfl

@[simp] theorem withGate_holds (f : Gate → Gate) : (withGate f s).holds = s.holds := rfl

@[simp] theorem withGate_chutes (f : Gate → Gate) : (withGate f s).chutes = s.chutes := rfl

@[simp] theorem withGate_closedCages (f : Gate → Gate) : (withGate f s).closedCages = s.closedCages := rfl

@[simp] theorem withGate_queues (f : Gate → Gate) : (withGate f s).queues = s.queues := rfl

@[simp] theorem withGate_players (f : Gate → Gate) : (withGate f s).players = s.players := rfl

@[simp] theorem withGate_strays (f : Gate → Gate) : (withGate f s).strays = s.strays := rfl

@[simp] theorem withGate_mgmt (f : Gate → Gate) : (withGate f s).mgmt = s.mgmt := rfl

/-! ### pushControl f -/

@[simp] theorem pushControl_pending (f : CtrlFrame) : (pushControl f s).pending = s.pending := rfl

@[simp] theorem pushControl_choices (f : CtrlFrame) : (pushControl f s).choices = s.choices := rfl

@[simp] theorem pushControl_resetLow (f : CtrlFrame) : (pushControl f s).resetLow = s.resetLow := rfl

@[simp] theorem pushControl_line (f : CtrlFrame) : (pushControl f s).line = lineControl f s.line := rfl

@[simp] theorem pushControl_nodes (f : CtrlFrame) : (pushControl f s).nodes = s.nodes := rfl

@[simp] theorem pushControl_tracker (f : CtrlFrame) : (pushControl f s).tracker = s.tracker := rfl

@[simp] theorem pushControl_gate (f : CtrlFrame) : (pushControl f s).gate = s.gate := rfl

@[simp] theorem pushControl_bags (f : CtrlFrame) : (pushControl f s).bags = s.bags := rfl

@[simp] theorem pushControl_loopMeas (f : CtrlFrame) : (pushControl f s).loopMeas = s.loopMeas := rfl

@[simp] theorem pushControl_sailing0 (f : CtrlFrame) : (pushControl f s).sailing0 = s.sailing0 := rfl

@[simp] theorem pushControl_sailing1 (f : CtrlFrame) : (pushControl f s).sailing1 = s.sailing1 := rfl

@[simp] theorem pushControl_holds (f : CtrlFrame) : (pushControl f s).holds = s.holds := rfl

@[simp] theorem pushControl_chutes (f : CtrlFrame) : (pushControl f s).chutes = s.chutes := rfl

@[simp] theorem pushControl_closedCages (f : CtrlFrame) : (pushControl f s).closedCages = s.closedCages := rfl

@[simp] theorem pushControl_queues (f : CtrlFrame) : (pushControl f s).queues = s.queues := rfl

@[simp] theorem pushControl_players (f : CtrlFrame) : (pushControl f s).players = s.players := rfl

@[simp] theorem pushControl_strays (f : CtrlFrame) : (pushControl f s).strays = s.strays := rfl

@[simp] theorem pushControl_mgmt (f : CtrlFrame) : (pushControl f s).mgmt = s.mgmt := rfl

/-! ### pushReport r -/

@[simp] theorem pushReport_pending (r : Report) : (pushReport r s).pending = s.pending := rfl

@[simp] theorem pushReport_choices (r : Report) : (pushReport r s).choices = s.choices := rfl

@[simp] theorem pushReport_resetLow (r : Report) : (pushReport r s).resetLow = s.resetLow := rfl

@[simp] theorem pushReport_line (r : Report) : (pushReport r s).line = s.line := rfl

@[simp] theorem pushReport_nodes (r : Report) : (pushReport r s).nodes = s.nodes := rfl

@[simp] theorem pushReport_tracker (r : Report) : (pushReport r s).tracker = s.tracker := rfl

@[simp] theorem pushReport_gate (r : Report) : (pushReport r s).gate = s.gate := rfl

@[simp] theorem pushReport_bags (r : Report) : (pushReport r s).bags = s.bags := rfl

@[simp] theorem pushReport_loopMeas (r : Report) : (pushReport r s).loopMeas = s.loopMeas := rfl

@[simp] theorem pushReport_sailing0 (r : Report) : (pushReport r s).sailing0 = s.sailing0 := rfl

@[simp] theorem pushReport_sailing1 (r : Report) : (pushReport r s).sailing1 = s.sailing1 := rfl

@[simp] theorem pushReport_holds (r : Report) : (pushReport r s).holds = s.holds := rfl

@[simp] theorem pushReport_chutes (r : Report) : (pushReport r s).chutes = s.chutes := rfl

@[simp] theorem pushReport_closedCages (r : Report) : (pushReport r s).closedCages = s.closedCages := rfl

@[simp] theorem pushReport_queues (r : Report) : (pushReport r s).queues = s.queues := rfl

@[simp] theorem pushReport_players (r : Report) : (pushReport r s).players = s.players := rfl

@[simp] theorem pushReport_strays (r : Report) : (pushReport r s).strays = s.strays := rfl

@[simp] theorem pushReport_mgmt (r : Report) : (pushReport r s).mgmt = mgmtReport r s.mgmt := rfl

/-! ### bump c -/

@[simp] theorem bump_pending (c : Counter) : (bump c s).pending = s.pending := rfl

@[simp] theorem bump_choices (c : Counter) : (bump c s).choices = s.choices := rfl

@[simp] theorem bump_resetLow (c : Counter) : (bump c s).resetLow = s.resetLow := rfl

@[simp] theorem bump_line (c : Counter) : (bump c s).line = s.line := rfl

@[simp] theorem bump_nodes (c : Counter) : (bump c s).nodes = s.nodes := rfl

@[simp] theorem bump_tracker (c : Counter) : (bump c s).tracker = s.tracker := rfl

@[simp] theorem bump_gate (c : Counter) : (bump c s).gate = s.gate := rfl

@[simp] theorem bump_bags (c : Counter) : (bump c s).bags = s.bags := rfl

@[simp] theorem bump_loopMeas (c : Counter) : (bump c s).loopMeas = s.loopMeas := rfl

@[simp] theorem bump_sailing0 (c : Counter) : (bump c s).sailing0 = s.sailing0 := rfl

@[simp] theorem bump_sailing1 (c : Counter) : (bump c s).sailing1 = s.sailing1 := rfl

@[simp] theorem bump_holds (c : Counter) : (bump c s).holds = s.holds := rfl

@[simp] theorem bump_chutes (c : Counter) : (bump c s).chutes = s.chutes := rfl

@[simp] theorem bump_closedCages (c : Counter) : (bump c s).closedCages = s.closedCages := rfl

@[simp] theorem bump_queues (c : Counter) : (bump c s).queues = s.queues := rfl

@[simp] theorem bump_players (c : Counter) : (bump c s).players = s.players := rfl

@[simp] theorem bump_strays (c : Counter) : (bump c s).strays = s.strays := rfl

@[simp] theorem bump_mgmt (c : Counter) : (bump c s).mgmt = { s.mgmt with counters := bumpCounters c s.mgmt.counters } := rfl

/-! ### claimSlot i tag kind -/

@[simp] theorem claimSlot_pending (i : Nat) (tag kind : Byte) : (claimSlot i tag kind s).pending = s.pending := rfl

@[simp] theorem claimSlot_choices (i : Nat) (tag kind : Byte) : (claimSlot i tag kind s).choices = s.choices := rfl

@[simp] theorem claimSlot_resetLow (i : Nat) (tag kind : Byte) : (claimSlot i tag kind s).resetLow = s.resetLow := rfl

@[simp] theorem claimSlot_line (i : Nat) (tag kind : Byte) : (claimSlot i tag kind s).line = { s.line with slots := tablePut .free s.line.slots i (.executing tag kind) } := rfl

@[simp] theorem claimSlot_nodes (i : Nat) (tag kind : Byte) : (claimSlot i tag kind s).nodes = s.nodes := rfl

@[simp] theorem claimSlot_tracker (i : Nat) (tag kind : Byte) : (claimSlot i tag kind s).tracker = s.tracker := rfl

@[simp] theorem claimSlot_gate (i : Nat) (tag kind : Byte) : (claimSlot i tag kind s).gate = s.gate := rfl

@[simp] theorem claimSlot_bags (i : Nat) (tag kind : Byte) : (claimSlot i tag kind s).bags = s.bags := rfl

@[simp] theorem claimSlot_loopMeas (i : Nat) (tag kind : Byte) : (claimSlot i tag kind s).loopMeas = s.loopMeas := rfl

@[simp] theorem claimSlot_sailing0 (i : Nat) (tag kind : Byte) : (claimSlot i tag kind s).sailing0 = s.sailing0 := rfl

@[simp] theorem claimSlot_sailing1 (i : Nat) (tag kind : Byte) : (claimSlot i tag kind s).sailing1 = s.sailing1 := rfl

@[simp] theorem claimSlot_holds (i : Nat) (tag kind : Byte) : (claimSlot i tag kind s).holds = s.holds := rfl

@[simp] theorem claimSlot_chutes (i : Nat) (tag kind : Byte) : (claimSlot i tag kind s).chutes = s.chutes := rfl

@[simp] theorem claimSlot_closedCages (i : Nat) (tag kind : Byte) : (claimSlot i tag kind s).closedCages = s.closedCages := rfl

@[simp] theorem claimSlot_queues (i : Nat) (tag kind : Byte) : (claimSlot i tag kind s).queues = s.queues := rfl

@[simp] theorem claimSlot_players (i : Nat) (tag kind : Byte) : (claimSlot i tag kind s).players = s.players := rfl

@[simp] theorem claimSlot_strays (i : Nat) (tag kind : Byte) : (claimSlot i tag kind s).strays = s.strays := rfl

@[simp] theorem claimSlot_mgmt (i : Nat) (tag kind : Byte) : (claimSlot i tag kind s).mgmt = s.mgmt := rfl

/-! ### beginSend x b n -/

@[simp] theorem beginSend_pending (x : TxSource) (b : List Byte) (n : Nat) : (beginSend x b n s).pending = s.pending := rfl

@[simp] theorem beginSend_choices (x : TxSource) (b : List Byte) (n : Nat) : (beginSend x b n s).choices = s.choices := rfl

@[simp] theorem beginSend_resetLow (x : TxSource) (b : List Byte) (n : Nat) : (beginSend x b n s).resetLow = s.resetLow := rfl

@[simp] theorem beginSend_line (x : TxSource) (b : List Byte) (n : Nat) : (beginSend x b n s).line = { s.line with sending := some { source := x, bytes := b }, runCount := n } := rfl

@[simp] theorem beginSend_nodes (x : TxSource) (b : List Byte) (n : Nat) : (beginSend x b n s).nodes = s.nodes := rfl

@[simp] theorem beginSend_tracker (x : TxSource) (b : List Byte) (n : Nat) : (beginSend x b n s).tracker = s.tracker := rfl

@[simp] theorem beginSend_gate (x : TxSource) (b : List Byte) (n : Nat) : (beginSend x b n s).gate = s.gate := rfl

@[simp] theorem beginSend_bags (x : TxSource) (b : List Byte) (n : Nat) : (beginSend x b n s).bags = s.bags := rfl

@[simp] theorem beginSend_loopMeas (x : TxSource) (b : List Byte) (n : Nat) : (beginSend x b n s).loopMeas = s.loopMeas := rfl

@[simp] theorem beginSend_sailing0 (x : TxSource) (b : List Byte) (n : Nat) : (beginSend x b n s).sailing0 = s.sailing0 := rfl

@[simp] theorem beginSend_sailing1 (x : TxSource) (b : List Byte) (n : Nat) : (beginSend x b n s).sailing1 = s.sailing1 := rfl

@[simp] theorem beginSend_holds (x : TxSource) (b : List Byte) (n : Nat) : (beginSend x b n s).holds = s.holds := rfl

@[simp] theorem beginSend_chutes (x : TxSource) (b : List Byte) (n : Nat) : (beginSend x b n s).chutes = s.chutes := rfl

@[simp] theorem beginSend_closedCages (x : TxSource) (b : List Byte) (n : Nat) : (beginSend x b n s).closedCages = s.closedCages := rfl

@[simp] theorem beginSend_queues (x : TxSource) (b : List Byte) (n : Nat) : (beginSend x b n s).queues = s.queues := rfl

@[simp] theorem beginSend_players (x : TxSource) (b : List Byte) (n : Nat) : (beginSend x b n s).players = s.players := rfl

@[simp] theorem beginSend_strays (x : TxSource) (b : List Byte) (n : Nat) : (beginSend x b n s).strays = s.strays := rfl

@[simp] theorem beginSend_mgmt (x : TxSource) (b : List Byte) (n : Nat) : (beginSend x b n s).mgmt = s.mgmt := rfl

/-! ### setSortHold b -/

@[simp] theorem setSortHold_pending (b : Bool) : (setSortHold b s).pending = s.pending := rfl

@[simp] theorem setSortHold_choices (b : Bool) : (setSortHold b s).choices = s.choices := rfl

@[simp] theorem setSortHold_resetLow (b : Bool) : (setSortHold b s).resetLow = s.resetLow := rfl

@[simp] theorem setSortHold_line (b : Bool) : (setSortHold b s).line = s.line := rfl

@[simp] theorem setSortHold_nodes (b : Bool) : (setSortHold b s).nodes = s.nodes := rfl

@[simp] theorem setSortHold_tracker (b : Bool) : (setSortHold b s).tracker = s.tracker := rfl

@[simp] theorem setSortHold_gate (b : Bool) : (setSortHold b s).gate = s.gate := rfl

@[simp] theorem setSortHold_bags (b : Bool) : (setSortHold b s).bags = s.bags := rfl

@[simp] theorem setSortHold_loopMeas (b : Bool) : (setSortHold b s).loopMeas = s.loopMeas := rfl

@[simp] theorem setSortHold_sailing0 (b : Bool) : (setSortHold b s).sailing0 = s.sailing0 := rfl

@[simp] theorem setSortHold_sailing1 (b : Bool) : (setSortHold b s).sailing1 = s.sailing1 := rfl

@[simp] theorem setSortHold_holds (b : Bool) : (setSortHold b s).holds = s.holds := rfl

@[simp] theorem setSortHold_chutes (b : Bool) : (setSortHold b s).chutes = s.chutes := rfl

@[simp] theorem setSortHold_closedCages (b : Bool) : (setSortHold b s).closedCages = s.closedCages := rfl

@[simp] theorem setSortHold_queues (b : Bool) : (setSortHold b s).queues = s.queues := rfl

@[simp] theorem setSortHold_players (b : Bool) : (setSortHold b s).players = s.players := rfl

@[simp] theorem setSortHold_strays (b : Bool) : (setSortHold b s).strays = s.strays := rfl

@[simp] theorem setSortHold_mgmt (b : Bool) : (setSortHold b s).mgmt = { s.mgmt with sortHold := b } := rfl

/-! ### setSailing 0 g -/

@[simp] theorem setSailing0_pending (g : Sailing) : (setSailing 0 g s).pending = s.pending := rfl

@[simp] theorem setSailing0_choices (g : Sailing) : (setSailing 0 g s).choices = s.choices := rfl

@[simp] theorem setSailing0_resetLow (g : Sailing) : (setSailing 0 g s).resetLow = s.resetLow := rfl

@[simp] theorem setSailing0_line (g : Sailing) : (setSailing 0 g s).line = s.line := rfl

@[simp] theorem setSailing0_nodes (g : Sailing) : (setSailing 0 g s).nodes = s.nodes := rfl

@[simp] theorem setSailing0_tracker (g : Sailing) : (setSailing 0 g s).tracker = s.tracker := rfl

@[simp] theorem setSailing0_gate (g : Sailing) : (setSailing 0 g s).gate = s.gate := rfl

@[simp] theorem setSailing0_bags (g : Sailing) : (setSailing 0 g s).bags = s.bags := rfl

@[simp] theorem setSailing0_loopMeas (g : Sailing) : (setSailing 0 g s).loopMeas = s.loopMeas := rfl

@[simp] theorem setSailing0_sailing0 (g : Sailing) : (setSailing 0 g s).sailing0 = g := rfl

@[simp] theorem setSailing0_sailing1 (g : Sailing) : (setSailing 0 g s).sailing1 = s.sailing1 := rfl

@[simp] theorem setSailing0_holds (g : Sailing) : (setSailing 0 g s).holds = s.holds := rfl

@[simp] theorem setSailing0_chutes (g : Sailing) : (setSailing 0 g s).chutes = s.chutes := rfl

@[simp] theorem setSailing0_closedCages (g : Sailing) : (setSailing 0 g s).closedCages = s.closedCages := rfl

@[simp] theorem setSailing0_queues (g : Sailing) : (setSailing 0 g s).queues = s.queues := rfl

@[simp] theorem setSailing0_players (g : Sailing) : (setSailing 0 g s).players = s.players := rfl

@[simp] theorem setSailing0_strays (g : Sailing) : (setSailing 0 g s).strays = s.strays := rfl

@[simp] theorem setSailing0_mgmt (g : Sailing) : (setSailing 0 g s).mgmt = s.mgmt := rfl

/-! ### setSailing 1 g -/

@[simp] theorem setSailing1_pending (g : Sailing) : (setSailing 1 g s).pending = s.pending := rfl

@[simp] theorem setSailing1_choices (g : Sailing) : (setSailing 1 g s).choices = s.choices := rfl

@[simp] theorem setSailing1_resetLow (g : Sailing) : (setSailing 1 g s).resetLow = s.resetLow := rfl

@[simp] theorem setSailing1_line (g : Sailing) : (setSailing 1 g s).line = s.line := rfl

@[simp] theorem setSailing1_nodes (g : Sailing) : (setSailing 1 g s).nodes = s.nodes := rfl

@[simp] theorem setSailing1_tracker (g : Sailing) : (setSailing 1 g s).tracker = s.tracker := rfl

@[simp] theorem setSailing1_gate (g : Sailing) : (setSailing 1 g s).gate = s.gate := rfl

@[simp] theorem setSailing1_bags (g : Sailing) : (setSailing 1 g s).bags = s.bags := rfl

@[simp] theorem setSailing1_loopMeas (g : Sailing) : (setSailing 1 g s).loopMeas = s.loopMeas := rfl

@[simp] theorem setSailing1_sailing0 (g : Sailing) : (setSailing 1 g s).sailing0 = s.sailing0 := rfl

@[simp] theorem setSailing1_sailing1 (g : Sailing) : (setSailing 1 g s).sailing1 = g := rfl

@[simp] theorem setSailing1_holds (g : Sailing) : (setSailing 1 g s).holds = s.holds := rfl

@[simp] theorem setSailing1_chutes (g : Sailing) : (setSailing 1 g s).chutes = s.chutes := rfl

@[simp] theorem setSailing1_closedCages (g : Sailing) : (setSailing 1 g s).closedCages = s.closedCages := rfl

@[simp] theorem setSailing1_queues (g : Sailing) : (setSailing 1 g s).queues = s.queues := rfl

@[simp] theorem setSailing1_players (g : Sailing) : (setSailing 1 g s).players = s.players := rfl

@[simp] theorem setSailing1_strays (g : Sailing) : (setSailing 1 g s).strays = s.strays := rfl

@[simp] theorem setSailing1_mgmt (g : Sailing) : (setSailing 1 g s).mgmt = s.mgmt := rfl


/-! ### Records read back after an update -/

theorem bagAt_setBag (h : (s.bags.map Prod.fst).Pairwise (· < ·)) (i k : Nat) (o : Option Bag) :
    bagAt (setBag i o s) k = if k = i then o else bagAt s k := tableGet_tablePut none s.bags i k o h

theorem chuteAt_setChute (h : (s.chutes.map Prod.fst).Pairwise (· < ·)) (c k : Nat) (r : Chute) :
    chuteAt (setChute c r s) k = if k = c then some r else chuteAt s k :=
  tableGet_tablePut none s.chutes c k (some r) h

theorem queueAt_setQueue (h : (s.queues.map Prod.fst).Pairwise (· < ·)) (c k : Nat) (q : List QEntry) :
    queueAt (setQueue c q s) k = if k = c then q else queueAt s k := tableGet_tablePut [] s.queues c k q h

theorem playerAt_setPlayer (h : (s.players.players.map Prod.fst).Pairwise (· < ·)) (p k : Nat) (r : Player) :
    playerAt (setPlayer p r s) k = if k = p then r else playerAt s k :=
  tableGet_tablePut resetPlayer s.players.players p k r h

theorem lineAt_setLine (h : (s.players.lines.map Prod.fst).Pairwise (· < ·)) (l k : Nat) (o : Option Nat) :
    lineAt (setLine l o s) k = if k = l then o else lineAt s k := tableGet_tablePut none s.players.lines l k o h

/-- A sailing index other than 0 names sailing 1. -/
theorem sailingAt_setSailing (i k : Nat) (g : Sailing) :
    sailingAt (setSailing i g s) k = if (k = 0) = (i = 0) then g else sailingAt s k := by
  unfold sailingAt setSailing
  by_cases hi : i = 0 <;> by_cases hk : k = 0 <;> simp [hi, hk]

@[simp] theorem bagAt_setQueue (c : Nat) (q : List QEntry) (i : Nat) : bagAt (setQueue c q s) i = bagAt s i := rfl
@[simp] theorem bagAt_setChute (c : Nat) (r : Chute) (i : Nat) : bagAt (setChute c r s) i = bagAt s i := rfl
@[simp] theorem bagAt_bump (c : Counter) (i : Nat) : bagAt (bump c s) i = bagAt s i := rfl
@[simp] theorem bagAt_pushControl (f : CtrlFrame) (i : Nat) : bagAt (pushControl f s) i = bagAt s i := rfl
@[simp] theorem bagAt_pushReport (r : Report) (i : Nat) : bagAt (pushReport r s) i = bagAt s i := rfl
@[simp] theorem bagAt_withGate (f : Gate → Gate) (i : Nat) : bagAt (withGate f s) i = bagAt s i := rfl
@[simp] theorem bagAt_withTracker (f : Tracker → Tracker) (i : Nat) : bagAt (withTracker f s) i = bagAt s i := rfl
@[simp] theorem chuteAt_setBag (i : Nat) (o : Option Bag) (c : Nat) : chuteAt (setBag i o s) c = chuteAt s c := rfl
@[simp] theorem chuteAt_setQueue (d : Nat) (q : List QEntry) (c : Nat) : chuteAt (setQueue d q s) c = chuteAt s c := rfl
@[simp] theorem queueAt_setBag (i : Nat) (o : Option Bag) (c : Nat) : queueAt (setBag i o s) c = queueAt s c := rfl
@[simp] theorem queueAt_setChute (d : Nat) (r : Chute) (c : Nat) : queueAt (setChute d r s) c = queueAt s c := rfl

/-! ### Availability -/

variable {s}

/-- While the sort is held no chute is available (R126, R194). -/
theorem noneAvailable_of_sortHold (h : s.mgmt.sortHold = true) : NoneAvailable s := by
  intro c _
  unfold available
  split <;> simp [h]

/-- With no chute loaded none is available. -/
theorem noneAvailable_of_no_chutes (h : s.chutes = []) : NoneAvailable s := by
  intro c _
  simp [available, chuteAt, h, tableGet]

/-- In BLIND and NOT_READY no chute is available (R126). -/
theorem noneAvailable_of_not_tracking (h : s.tracker.state ≠ .tracking) : NoneAvailable s := by
  intro c _
  unfold available
  split <;> simp [h]

variable (s)

/-! ### LINE OUT -/

@[simp] theorem still_beginSend (x : TxSource) (b : List Byte) (n : Nat) : (beginSend x b n s).still = s.still := rfl

/-- The arbiter's choice changes nothing but the frame being sent and the run count. -/
theorem still_kickLineOut : (kickLineOut s).still = s.still := by
  unfold kickLineOut arbiterChoice sendMgmt
  split
  · rfl
  · split <;> (try rfl) <;> repeat' (first | rfl | split)

/-- A command that is an event gives its effect, when RESETN is high. -/
theorem event_gives (f : State → State) (h : s.resetLow = false) : Gives (event f s) (f s) :=
  ⟨kickLineOut (f s), by simp [event, h], still_kickLineOut _⟩

/-- While RESETN is low an event has no effect. -/
theorem event_low (f : State → State) (h : s.resetLow = true) : event f s = .next s := by simp [event, h]

end Sys2Proof.Machine
end

