-- ==== Sys2Proof/Laws/Calm.lean ====
section
/-! SUPPORT. What the blocks' work on the belt, the bags, the chutes and the cages can do, said once: a relation made of
the part's named updates. Every such work leaves the tracker, the hold list, the Node Table, the transit queue, the
reply slots and the waiting commands as they were, and keeps the invariants of Safety.lean. -/

namespace Sys2Proof.Machine

/-- The state after is reached from the state before by the named updates of bags, chutes, queues, players, cages,
manifests, strays, the gate, counters, control frames and reports. -/
inductive Calm : State → State → Prop where
  | refl (s : State) : Calm s s
  | trans {s t u : State} : Calm s t → Calm t u → Calm s u
  | choices (s : State) (n : Nat) : Calm s { s with choices := n }
  | bag (s : State) (i : Nat) (o : Option Bag) : Calm s (setBag i o s)
  | mapBags (s : State) (f : Bag → Bag) : Calm s (Machine.mapBags f s)
  | meas (s : State) (m : Table (Option Measure)) (h : TableWf none s.loopMeas → TableWf none m) :
      Calm s { s with loopMeas := m }
  | gate (s : State) (f : Gate → Gate) (h : TableWf none s.gate.slots → TableWf none (f s.gate).slots) :
      Calm s (withGate f s)
  | sailing (s : State) (i : Nat) (g : Sailing) (h : SailingWf (sailingAt s i) → SailingWf g) :
      Calm s (setSailing i g s)
  | player (s : State) (p : Nat) (r : Player) : Calm s (setPlayer p r s)
  | trigger (s : State) (l : Nat) (o : Option Nat) : Calm s (setLine l o s)
  | noTriggers (s : State) : Calm s { s with players := { s.players with lines := [] } }
  | strays (s : State) (x : Strays) (h : x.entries.length ≤ s.strays.entries.length) : Calm s { s with strays := x }
  | control (s : State) (f : CtrlFrame) : Calm s (pushControl f s)
  | report (s : State) (r : Report) : Calm s (pushReport r s)
  | count (s : State) (c : Counter) : Calm s (bump c s)
  | chute (s : State) (c : Nat) (r r' : Chute) (h : chuteAt s c = some r) (hr : r'.role = r.role)
      (hc : r'.capacity = r.capacity) (hl : r'.cage.loaded = r.cage.loaded ∨ r'.cage.loaded = []) :
      Calm s (setChute c r' s)
  | arm (s : State) (i c : Nat) (b : Bag) (r : Chute) (hc : c < 32) (ha : available s c = true)
      (hr : chuteAt s c = some r) (hq : committed s c < 3) : Calm s (armBag i c b r s)
  | drop (s : State) (i c : Nat) : Calm s (setQueue c (removeEntry i (queueAt s c)) s)
  | rank (s : State) (i c : Nat) : Calm s (setQueue c (rankEntry i (queueAt s c)) s)
  | closed (s : State) (h : ClosedCage) : Calm s { s with closedCages := (h :: s.closedCages).take 8 }
  | land (s : State) (i c : Nat) (r : Chute) (code : TagCode) (hr : chuteAt s c = some r)
      (hi : ∃ e ∈ queueAt s c, e.bag = i) :
      Calm s (modifyCage c (fun g => { g with loaded := g.loaded ++ [code] })
        (setQueue c (removeEntry i (queueAt s c)) s))
  | landStray (s : State) (i c : Nat) (r : Chute) (w : Reason) (codes : List TagCode) (lb : Nat)
      (hr : chuteAt s c = some r) (hs : r.role = .stray) (hi : ∃ e ∈ queueAt s c, e.bag = i) :
      Calm s (addStray w codes lb (setQueue c (removeEntry i (queueAt s c)) s)).2

/-! ### The lemmas' own plumbing -/

/-- A change of one bag record. -/
theorem calm_modifyBag (i : Nat) (f : Bag → Bag) (s : State) : Calm s (modifyBag i f s) := by
  unfold modifyBag
  split
  · exact .bag ..
  · exact .refl _

/-- A change of a chute that keeps its role and capacity, and its list or empties it. -/
theorem calm_modifyChute (c : Nat) (f : Chute → Chute) (s : State) (hr : ∀ r, (f r).role = r.role)
    (hc : ∀ r, (f r).capacity = r.capacity)
    (hl : ∀ r, (f r).cage.loaded = r.cage.loaded ∨ (f r).cage.loaded = []) : Calm s (modifyChute c f s) := by
  unfold modifyChute
  split
  · next r h => exact .chute _ _ r _ h (hr r) (hc r) (hl r)
  · exact .refl _

/-- A change of a cage that keeps its list or empties it. -/
theorem calm_modifyCage (c : Nat) (f : Cage → Cage) (s : State)
    (hl : ∀ g, (f g).loaded = g.loaded ∨ (f g).loaded = []) : Calm s (modifyCage c f s) :=
  calm_modifyChute _ _ _ (fun _ => rfl) (fun _ => rfl) fun r => hl r.cage

/-- Work done along a list is calm when each part of it is. -/
theorem calm_foldl {α : Type} (f : State → α → State) (l : List α) (s : State)
    (h : ∀ t a, a ∈ l → Calm t (f t a)) : Calm s (l.foldl f s) := by
  induction l generalizing s with
  | nil => exact .refl _
  | cons a l ih =>
    exact .trans (h s a (by simp)) (ih (f s a) fun t b hb => h t b (by simp [hb]))

theorem calm_pick (n : Nat) (s : State) : Calm s (pick n s).2 := by
  unfold pick
  split
  · exact .refl _
  · exact .choices ..

/-! ### Gate updates -/

theorem calm_gate (f : Gate → Gate) (s : State) (h : (f s.gate).slots = s.gate.slots) : Calm s (withGate f s) :=
  .gate _ _ (by rw [h]; exact id)

theorem calm_setRequest (n : Nat) (o : Option StationType) (s : State) : Calm s (setRequest n o s) :=
  .gate _ _ fun h => tablePut_wf _ _ _ _ h

theorem calm_setMeasure (k : Nat) (m : Option Measure) (s : State) : Calm s (setMeasure k m s) :=
  .meas _ _ fun h => tablePut_wf _ _ _ _ h

/-! ### Manifest -/

theorem putCabin_wf (p : Nat) (r : Cabin) (b : Bank) (h : BankWf b) : BankWf (putCabin p r b) :=
  ⟨tablePut_wf _ _ _ _ h.1, h.2⟩

theorem mirrorBank_wf (k : Tally) (c : TagCode) (w : Option Walk) (b : Bank) (h : BankWf b) :
    BankWf (mirrorBank k c w b) := by
  unfold mirrorBank
  repeat' split
  all_goals first | exact h | exact putCabin_wf _ _ _ h

theorem calm_tallyUpdate (k : Tally) (i : Nat) (c : TagCode) (s : State) : Calm s (tallyUpdate k i c s) := by
  unfold tallyUpdate
  split
  · exact .sailing _ _ _ fun h => ⟨putCabin_wf _ _ _ h.1, mirrorBank_wf _ _ _ _ h.2⟩
  · exact .refl _

/-! ### Players -/

theorem calm_pushLevel (p a b : Nat) (s : State) : Calm s (pushLevel p a b s) := by
  unfold pushLevel
  split
  · exact .control ..
  · exact .refl _

theorem calm_setPlay (p : Nat) (pl : Option Play) (s : State) : Calm s (setPlay p pl s) := .player ..

theorem calm_setPhase (p : Nat) (ph : Phase) (s : State) : Calm s (setPhase p ph s) := by
  unfold setPhase
  split
  · exact .player ..
  · exact .refl _

theorem calm_clearLinesOf (p : Nat) (s : State) : Calm s (clearLinesOf p s) := by
  refine calm_foldl _ _ _ fun t l _ => ?_
  split
  · exact .trigger ..
  · exact .refl _

theorem calm_stepTask (t : PTask) (s : State) : Calm s (stepTask t s).1 := by
  cases t with
  | startPlay p f => exact .trans (calm_clearLinesOf p s) (calm_setPlay p _ _)
  | segment p k =>
    simp only [stepTask]
    split
    · split
      · exact .trans (calm_pushLevel p _ _ s) (calm_setPlay p _ _)
      · exact calm_setPlay p _ s
    · exact .refl s
  | raise p l =>
    simp only [stepTask]
    split
    · exact .trigger s l _
    · exact .trigger s l _
  | rampBegin p ms =>
    simp only [stepTask]
    split
    · exact .refl s
    · exact calm_setPhase p _ s
  | holdBegin p =>
    simp only [stepTask]
    split
    · split
      · split
        · split
          · exact .refl s
          · exact calm_setPhase p _ s
        · split
          · exact .refl s
          · exact calm_setPhase p _ s
        · split
          · exact .trigger s _ _
          · exact calm_setPhase p _ s
      · exact calm_setPlay p _ s
    · exact .refl s
  | holdEnd p =>
    simp only [stepTask]
    split
    · split
      · exact .refl s
      · split
        · exact .player s p _
        · exact calm_setPlay p _ s
    · exact .refl s

theorem calm_runTasks (n : Nat) (ts : List PTask) (s : State) : Calm s (runTasks n ts s) := by
  induction n generalizing ts s with
  | zero => exact .refl _
  | succ n ih =>
    cases ts with
    | nil => exact .refl _
    | cons t ts => exact .trans (calm_stepTask t s) (ih _ _)

theorem calm_runTask (t : PTask) (s : State) : Calm s (runTask t s) := calm_runTasks ..

theorem calm_keepFire (p : Nat) (f : Fire) (s : State) : Calm s (keepFire p f s).1 := by
  simp only [keepFire]
  split
  · exact Calm.player s p _
  · exact Calm.refl s

theorem calm_playerFire (p : Nat) (f : Fire) (s : State) : Calm s (playerFire p f s).1 := by
  simp only [playerFire]
  split
  · exact .refl s
  · split
    · exact .refl s
    · split
      · dsimp only
        exact calm_runTask (.startPlay p f) s
      · split
        · split
          · exact calm_setPhase p _ s
          · exact calm_keepFire p f s
        · exact calm_keepFire p f s

theorem calm_playerAdvance (a p : Nat) (s : State) : Calm s (playerAdvance a p s) := by
  unfold playerAdvance
  split
  · simp only
    split
    · exact .trans (calm_setPhase ..) (calm_runTask ..)
    · exact calm_setPhase ..
  · exact .refl _

theorem calm_blindWindows (s : State) : Calm s (blindWindows s) := by
  refine calm_foldl _ _ _ fun t p _ => ?_
  split
  · exact calm_runTask ..
  · exact .refl _

theorem calm_abortPlay (p : Nat) (s : State) : Calm s (abortPlay p s) := .player ..

theorem calm_changeMode (p : Nat) (m : PlayerMode) (s : State) : Calm s (changeMode p m s) :=
  .trans (calm_abortPlay p s) (.trans (.player ..) (calm_pushLevel ..))

theorem calm_restartPlayers (s : State) : Calm s (restartPlayers s) := by
  refine .trans (calm_foldl _ _ _ fun t p _ => ?_) (.noTriggers _)
  split
  · exact .trans (calm_abortPlay ..) (calm_pushLevel ..)
  · exact .player ..

/-! ### Divert Timer -/

theorem calm_leaveQueue (i : Nat) (s : State) : Calm s (leaveQueue i s) := by
  unfold leaveQueue
  repeat' split
  all_goals first | exact .refl _ | exact .trans (.drop ..) (.bag ..)

theorem calm_disarm (i : Nat) (s : State) : Calm s (disarm i s) := by
  unfold disarm
  split
  · exact calm_leaveQueue ..
  · exact .refl _

theorem calm_missCore (i : Nat) (s : State) : Calm s (missCore i s) := by
  unfold missCore
  split
  · exact .trans (calm_leaveQueue ..) (.count ..)
  · exact .refl _

theorem calm_tryArm (i c : Nat) (s t : State) (hc : c < 32) (ha : available s c = true) (h : tryArm i c s = some t) :
    Calm s t := by
  unfold tryArm at h
  split at h
  · next b r _ hr =>
    split at h
    · next hb =>
      cases h
      exact .arm _ _ _ _ _ hc ha hr hb.2.2
    · cases h
  · cases h

/-! ### Offers -/

theorem available_of_serves {s : State} {k c : Nat} (h : servesClass s k c = true) : available s c = true := by
  unfold servesClass at h
  simp only [Bool.and_eq_true] at h
  exact h.1

theorem available_of_unassigned {s : State} {c : Nat} (h : unassigned s c = true) : available s c = true := by
  unfold unassigned at h
  simp only [Bool.and_eq_true] at h
  exact h.1

theorem calm_armServing (i k c : Nat) (s t : State) (hc : c < 32) (h : armServing i k c s = some t) : Calm s t := by
  unfold armServing at h
  split at h
  · next ha => exact calm_tryArm i c s t hc (available_of_serves ha) h
  · cases h

theorem calm_armAssigning (i k c : Nat) (s t : State) (hc : c < 32) (h : armAssigning i k c s = some t) : Calm s t := by
  unfold armAssigning at h
  split at h
  · next ha =>
    obtain ⟨u, hu, rfl⟩ := Option.map_eq_some_iff.mp h
    exact .trans (calm_tryArm i c s u hc (available_of_unassigned ha) hu)
      (calm_modifyChute _ _ _ (fun _ => rfl) (fun _ => rfl) fun _ => .inl rfl)
  · cases h

theorem calm_armStray (i c : Nat) (s t : State) (hc : c < 32) (h : armStray i c s = some t) : Calm s t := by
  unfold armStray at h
  split at h
  · next ha =>
    simp only [Bool.and_eq_true] at ha
    exact calm_tryArm i c s t hc ha.1 h
  · cases h

theorem calm_armOverflow (i : Nat) (w : Reason) (c : Nat) (s t : State) (hc : c < 32)
    (h : armOverflow i w c s = some t) : Calm s t := by
  unfold armOverflow at h
  split at h
  · next ha =>
    simp only [Bool.and_eq_true] at ha
    obtain ⟨u, hu, rfl⟩ := Option.map_eq_some_iff.mp h
    exact .trans (calm_tryArm i c s u hc ha.1 hu) (calm_modifyBag ..)
  · cases h

theorem calm_firstArmed (f : Nat → State → Option State) (cs : List Nat) (s t : State)
    (hf : ∀ c t, c ∈ cs → f c s = some t → Calm s t) (h : firstArmed f cs s = some t) : Calm s t := by
  induction cs with
  | nil => cases h
  | cons c cs ih =>
    unfold firstArmed at h
    split at h
    · next u hu =>
      cases h
      exact hf c _ (by simp) hu
    · exact ih (fun d u hd => hf d u (by simp [hd])) h

theorem downstreamChutes_lt {s : State} {e c : Nat} (h : c ∈ downstreamChutes s e) : c < 32 := by
  unfold downstreamChutes at h
  simp only [List.mem_insertionSort, List.mem_filter, List.mem_range] at h
  exact h.1

/-- Nothing, or a calm work. -/
theorem calm_getD {o : Option State} {s : State} (h : ∀ t, o = some t → Calm s t) : Calm s (o.getD s) := by
  cases o with
  | none => exact .refl _
  | some t => exact h t rfl

theorem calm_offerBag (i : Nat) (s : State) : Calm s (offerBag i s) := by
  unfold offerBag
  split
  · next b _ =>
    split
    · simp only
      have lt : ∀ {c}, c ∈ downstreamChutes s (b.edge.getD 0) → c < 32 := downstreamChutes_lt
      split
      · next k =>
        split
        · next t h => exact calm_firstArmed _ _ _ _ (fun c t hc h => calm_armServing _ _ c s t (lt hc) h) h
        · exact calm_getD fun t h => calm_firstArmed _ _ _ _ (fun c t hc h => calm_armAssigning _ _ c s t (lt hc) h) h
      · next w =>
        split
        · next t h => exact calm_firstArmed _ _ _ _ (fun c t hc h => calm_armStray _ c s t (lt hc) h) h
        · exact calm_getD fun t h => calm_firstArmed _ _ _ _ (fun c t hc h => calm_armOverflow _ _ c s t (lt hc) h) h
      · next w => exact calm_getD fun t h => calm_firstArmed _ _ _ _ (fun c t hc h => calm_armOverflow _ _ c s t (lt hc) h) h
      · exact .refl _
    · exact .refl _
  · exact .refl _

theorem calm_offerBags (is : List Nat) (s : State) : Calm s (offerBags is s) :=
  calm_foldl _ _ _ fun _ i _ => calm_offerBag i _

theorem calm_armAtChute (i c : Nat) (s t : State) (hc : c < 32) (h : armAtChute i c s = some t) : Calm s t := by
  unfold armAtChute at h
  split at h
  · split at h
    · split at h
      · split at h
        · next u hu => cases h; exact calm_armServing _ _ c s _ hc hu
        · exact calm_armAssigning _ _ c s t hc h
      · split at h
        · next u hu => cases h; exact calm_armStray _ c s _ hc hu
        · split at h
          · cases h
          · exact calm_armOverflow _ _ c s t hc h
      · exact calm_armOverflow _ _ c s t hc h
      · cases h
    · cases h
  · cases h

theorem calm_roundAt (s : State) (c : Nat) (hc : c < 32) : Calm s (roundAt s c) := by
  refine calm_foldl _ _ _ fun t i _ => ?_
  unfold roundBag
  split
  · exact calm_getD fun u h => calm_armAtChute i c t u hc h
  · exact .refl _

theorem calm_roundsAt (cs : List Nat) (s : State) (h : ∀ c ∈ cs, c < 32) : Calm s (roundsAt cs s) :=
  calm_foldl _ _ _ fun t c hc => calm_roundAt t c (h c hc)

theorem roundsDue_lt {s t : State} : ∀ c ∈ roundsDue s t, c < 32 := by
  intro c h
  unfold roundsDue at h
  simp only [List.mem_filter, List.mem_range] at h
  exact h.1

/-- An action with its rounds is calm when the action is. -/
theorem calm_withRounds (f : State → State) (s : State) (h : Calm s (f s)) : Calm s (withRounds f s) :=
  .trans h (calm_roundsAt _ _ roundsDue_lt)

theorem calm_disarmAll (is : List Nat) (s : State) : Calm s (disarmAll is s) :=
  .trans (calm_foldl _ _ _ fun _ i _ => calm_disarm i _) (calm_offerBags ..)

/-! ### Stray Unit -/

theorem calm_dropStray (n : Nat) (s : State) : Calm s (dropStray n s) :=
  .strays _ _ (List.length_filter_le ..)

theorem calm_removeStray (n : Nat) (s : State) : Calm s (removeStray n s) := calm_withRounds _ _ (calm_dropStray ..)

theorem calm_keyStray (n : Nat) (o : Owned) (s : State) : Calm s (keyStray n o s) := .strays _ _ (by simp)

theorem calm_pairStray (i : Nat) (s : State) : Calm s (pairStray i s) := by
  unfold pairStray
  repeat' split
  · exact calm_withRounds _ _ (.trans (calm_dropStray ..) (calm_modifyBag ..))
  · exact .refl _
  · exact .refl _

/-! ### Induction Gate -/

theorem calm_pushSpeed (v : SpeedState) (s : State) : Calm s (pushSpeed v s) := by
  unfold pushSpeed
  split
  · exact .control ..
  · exact .refl _

theorem calm_setSpeed (v : SpeedState) (s : State) : Calm s (setSpeed v s) := by
  unfold setSpeed
  split
  · exact .refl _
  · exact .trans (calm_gate _ _ rfl) (calm_pushSpeed ..)

theorem calm_idleUpdate (s : State) : Calm s (idleUpdate s) := by
  unfold idleUpdate
  repeat' split
  all_goals first | exact .refl _ | exact calm_gate _ _ rfl

theorem calm_wakeLoop (s : State) : Calm s (wakeLoop s) := .trans (calm_gate _ _ rfl) (calm_setSpeed ..)

theorem calm_pushGate (n : Nat) (b : Bool) (s : State) : Calm s (pushGate n b s) := by
  unfold pushGate
  split
  · exact .control ..
  · exact .refl _

theorem calm_createBag (b : Bag) (s t : State) (i : Nat) (h : createBag b s = some (i, t)) : Calm s t := by
  unfold createBag at h
  obtain ⟨j, -, h⟩ := Option.map_eq_some_iff.mp h
  cases h
  exact .trans (.bag ..) (calm_wakeLoop ..)

theorem calm_grantStation (n : Nat) (ty : StationType) (s : State) : Calm s (grantStation n ty s) := by
  unfold grantStation
  split
  · next i s1 h =>
    extract_lets s2 s3 s4
    have h2 : Calm s s2 := .trans (calm_createBag _ _ _ _ h) (calm_gate _ _ rfl)
    have h3 : Calm s2 s3 := by
      show Calm s2 (if ty = .encode then pairStray i s2 else s2)
      split
      · exact calm_pairStray ..
      · exact .refl _
    have h4 : Calm s3 s4 := calm_pushGate ..
    exact .trans h2 (.trans h3 (.trans h4 (.trans (.gate _ _ fun h => tablePut_wf _ _ _ _ h) (.count ..))))
  · exact .refl _

theorem calm_grantFirst (ns : List Nat) (s : State) : Calm s (grantFirst ns s) := by
  induction ns generalizing s with
  | nil => exact .refl _
  | cons n ns ih =>
    unfold grantFirst
    repeat' split
    · exact calm_grantStation ..
    · exact .trans (calm_setRequest ..) (.trans (calm_idleUpdate _) (ih _))
    · exact ih _

theorem calm_grantAttempt (s : State) : Calm s (grantAttempt s) := by
  unfold grantAttempt
  split
  · exact calm_grantFirst ..
  · exact .refl _

theorem calm_takeInduct (d : StationId) (s : State) : Calm s (takeInduct d s) := by
  unfold takeInduct
  split
  · exact calm_pushGate ..
  · simp only
    have h := Calm.trans (calm_setRequest d.number (some d.type) s) (.trans (calm_wakeLoop _) (calm_grantAttempt _))
    split
    · exact .trans h (calm_pushGate ..)
    · exact h

theorem calm_takeDrive (b : Bool) (s : State) : Calm s (takeDrive b s) := by
  unfold takeDrive
  generalize (if b then DriveState.ready else DriveState.fault) = st
  have h : Calm s (pushReport (.drive (!b)) (withGate (fun g => { g with drive := st }) s)) :=
    .trans (calm_gate (fun g => { g with drive := st }) s rfl) (.report ..)
  show Calm s (if s.gate.drive = st then s else _)
  by_cases hd : s.gate.drive = st
  · rw [if_pos hd]
    exact .refl s
  · rw [if_neg hd]
    cases b
    · exact h
    · exact .trans h (calm_grantAttempt _)

theorem calm_expireRunIdle (s : State) : Calm s (expireRunIdle s) := by
  unfold expireRunIdle
  split
  · exact .trans (calm_gate _ _ rfl) (calm_setSpeed ..)
  · exact .refl _

theorem calm_expireSlowIdle (s : State) : Calm s (expireSlowIdle s) := by
  unfold expireSlowIdle
  split
  · exact .trans (calm_gate _ _ rfl) (calm_setSpeed ..)
  · exact .refl _

theorem calm_restartGate (s : State) : Calm s (restartGate s) :=
  .trans (.gate _ _ fun _ => nil_wf _) (calm_pushSpeed ..)

/-! ### Bag Table -/

theorem calm_placeBag (i j e : Nat) (s : State) : Calm s (placeBag i j e s) := by
  unfold placeBag
  split
  · exact calm_modifyBag ..
  · exact .refl _

theorem calm_setTarget (i : Nat) (t : Target) (s : State) : Calm s (setTarget i t s) := calm_modifyBag ..

theorem calm_giveTarget (i : Nat) (t : Target) (s : State) : Calm s (giveTarget i t s) := by
  unfold giveTarget
  split
  · exact .trans (calm_disarm ..) (.trans (calm_setTarget ..) (calm_offerBag ..))
  · exact .refl _

theorem filter_wf {α : Type} (d : α) (t : Table α) (p : Nat × α → Bool) (h : TableWf d t) : TableWf d (t.filter p) :=
  ⟨h.1.sublist (List.filter_sublist.map _), fun e he => h.2 e (List.mem_of_mem_filter he)⟩

theorem calm_dropMeasures (i : Nat) (s : State) : Calm s (dropMeasures i s) := by
  unfold dropMeasures
  simp only
  have h : Calm s { s with loopMeas := s.loopMeas.filter fun (_, o) =>
      match o with
      | some m => decide (m.bag ≠ i)
      | none => true } := .meas _ _ fun h => filter_wf _ _ _ h
  repeat' split
  · exact .trans h (calm_gate _ _ rfl)
  · exact h
  · exact h

theorem calm_releaseOwner (b : Bag) (s : State) : Calm s (releaseOwner b s) := by
  unfold releaseOwner
  split
  · exact calm_tallyUpdate ..
  · exact .refl _

theorem calm_freeBag (i : Nat) (d : Counter) (mk : Disposed → Report) (s : State) : Calm s (freeBag i d mk s) := by
  unfold freeBag
  split
  · next b _ =>
    have h : Calm s (if d = .loaded then s else releaseOwner b s) := by
      split
      · exact .refl _
      · exact calm_releaseOwner ..
    extract_lets s1 s2
    have h2 : Calm s1 s2 := .trans (calm_dropMeasures i _) (.report ..)
    exact .trans h (.trans h2 (.trans (.count s2 d)
      (.trans (.bag ..) (.trans (calm_grantAttempt _) (calm_idleUpdate _)))))
  · exact .refl _

theorem calm_loseBag (i : Nat) (s : State) : Calm s (loseBag i s) := by
  unfold loseBag
  split
  · exact .trans (calm_disarm ..) (calm_freeBag ..)
  · exact .refl _

theorem calm_eyeMiss (i : Nat) (f : State → State) (s : State) (h : ∀ t, Calm t (f t)) : Calm s (eyeMiss i f s) := by
  unfold eyeMiss
  repeat' split
  · exact h _
  · exact .trans (calm_modifyBag ..) (h _)
  · exact calm_loseBag ..
  · exact .refl _

theorem calm_setExpEye (i : Nat) (e : Option ExpEye) (s : State) : Calm s (setExpEye i e s) := calm_modifyBag ..

theorem calm_lapMark (i : Nat) (s : State) : Calm s (lapMark i s) := by
  unfold lapMark
  split
  · next c b _ _ =>
    extract_lets s1
    have h : Calm s s1 := by
      show Calm s (match b.expEye with
        | some { eye := _, lap := .this } => eyeMiss i (setExpEye i (firstEye c .this)) s
        | _ => s)
      split
      · exact calm_eyeMiss _ _ _ fun _ => calm_setExpEye ..
      · exact .refl _
    split
    · exact .trans h (.trans (calm_modifyBag ..) (calm_offerBag ..))
    · exact h
  · exact .refl _

theorem calm_missDivert (i : Nat) (s : State) : Calm s (missDivert i s) :=
  calm_withRounds _ _ (.trans (calm_missCore ..) (calm_offerBag ..))

theorem calm_inductTimeoutNow (s : State) : Calm s (inductTimeoutNow s) := by
  unfold inductTimeoutNow
  split
  · exact .trans (calm_freeBag ..) (.trans (calm_gate _ _ rfl) (calm_grantAttempt _))
  · exact .refl _

theorem calm_entryOversizeNow (s : State) : Calm s (entryOversizeNow s) := by
  unfold entryOversizeNow
  split
  · refine calm_withRounds _ _ ?_
    simp only
    split
    · exact .trans (calm_dropMeasures ..) (calm_modifyBag ..)
    · exact .trans (.trans (calm_dropMeasures ..) (calm_modifyBag ..)) (calm_giveTarget ..)
  · exact .refl _

/-! ### An advance -/

theorem calm_fireInAdvance (a p : Nat) (f : Fire) (m : Moving) : Calm m.s (fireInAdvance a p f m).1.s := by
  have hp := calm_pick 2 m.s
  unfold fireInAdvance
  simp only
  repeat' split
  · exact .trans hp (.trans (calm_playerAdvance ..) (calm_playerFire ..))
  · exact .trans hp (calm_playerFire ..)
  · exact .trans (calm_playerFire ..) (calm_pick ..)
  · exact .trans (calm_playerFire ..) (calm_pick ..)
  · exact calm_playerFire ..

theorem calm_startDivert (i n : Nat) (d : Divert) (s : State) : Calm s (startDivert i n d s) :=
  .trans (.rank ..) (calm_modifyBag ..)

theorem calm_fireBag (a : Nat) (it : MoveItem) (m : Moving) : Calm m.s (fireBag a it m).s := by
  unfold fireBag
  extract_lets m0
  split
  · next d _ =>
    split
    · next r _ =>
      extract_lets f m1
      have h1 : Calm m.s m1.s := by
        show Calm m.s (match r.takeaway with
          | some p => (fireInAdvance a p f m0).1
          | none => m0).s
        split
        · exact calm_fireInAdvance a _ f m0
        · exact .refl _
      have h2 := Calm.trans h1 (calm_fireInAdvance a r.diverter f m1)
      split
      next m2 ans e =>
      rw [e] at h2
      split
      · exact .trans h2 (calm_withRounds _ _ (.trans (calm_modifyBag ..) (.trans (calm_missCore ..) (calm_offerBag ..))))
      · exact .trans h2 (calm_startDivert ..)
    · exact .refl _
  · exact .refl _

theorem calm_missInAdvance (c : LoopCfg) (a : Nat) (it : MoveItem) (s : State) : Calm s (missInAdvance c a it s) := by
  unfold missInAdvance
  split
  · exact calm_withRounds _ _ (calm_eyeMiss _ _ _ fun _ => calm_placeBag ..)
  · exact .refl _

theorem calm_takePoint (c : LoopCfg) (a n : Nat) (it : MoveItem) (k : Point) (m : Moving) :
    Calm m.s (takePoint c a n it k m).s := by
  cases k with
  | fire => exact calm_fireBag ..
  | deadline => exact calm_missDivert ..
  | miss => exact calm_missInAdvance ..
  | lap =>
    exact calm_withRounds (fun s => lapMark it.bag (modifyBag it.bag (wrapEdge c.len) s)) m.s
      (.trans (calm_modifyBag ..) (calm_lapMark ..))

theorem calm_takePoints (c : LoopCfg) (a n : Nat) (m : Moving) : Calm m.s (takePoints c a n m).s := by
  induction n generalizing m with
  | zero => exact .refl _
  | succ n ih =>
    unfold takePoints
    split
    · next part it _ =>
      simp only
      exact .trans (calm_pick _ m.s) (.trans (calm_takePoint _ _ _ _ _ { m with s := _ }) (ih _))
    · exact .refl _

theorem advanceLoopMeas_wf (max a : Nat) (t : Table (Option Measure)) (h : TableWf none t) :
    TableWf none (t.filterMap fun (k, o) =>
      match o with
      | some m => if max ≤ m.m + a then none else some (k, some { m with m := m.m + a })
      | none => none) := by
  constructor
  · rw [List.pairwise_map, List.pairwise_filterMap]
    refine (List.pairwise_map.mp h.1).imp ?_
    rintro ⟨j, o⟩ ⟨k, o'⟩ hjk x hx y hy
    have e1 : x.1 = j := by
      cases o with
      | none => simp at hx
      | some m => simp only at hx; split at hx <;> simp_all; rw [← hx]
    have e2 : y.1 = k := by
      cases o' with
      | none => simp at hy
      | some m => simp only at hy; split at hy <;> simp_all; rw [← hy]
    rw [e1, e2]
    exact hjk
  · intro e he
    obtain ⟨⟨k, o⟩, -, hx⟩ := List.mem_filterMap.mp he
    cases o with
    | none => simp at hx
    | some m =>
      simp only at hx
      split at hx
      · cases hx
      · cases hx; simp

theorem calm_advanceLoopMeas (max a : Nat) (s : State) : Calm s (advanceLoopMeas max a s) :=
  .meas _ _ (advanceLoopMeas_wf max a _)

theorem calm_advanceInduct (a : Nat) (s : State) : Calm s (advanceInduct a s) := by
  unfold advanceInduct
  split
  · simp only
    split
    · exact .trans (calm_gate _ _ rfl) (calm_inductTimeoutNow _)
    · exact calm_gate _ _ rfl
  · exact .refl _

theorem calm_advanceEntry (max a : Nat) (s : State) : Calm s (advanceEntry max a s) := by
  unfold advanceEntry
  split
  · simp only
    split
    · exact .trans (calm_gate _ _ rfl) (calm_entryOversizeNow _)
    · exact calm_gate _ _ rfl
  · exact .refl _

theorem calm_advancePlayers (a : Nat) (ws : List Nat) (s : State) : Calm s (advancePlayers a ws s) :=
  calm_foldl _ _ _ fun _ p _ => calm_playerAdvance a p _

/-- Everything an advance brings about is calm: above all it leaves the tracker as it stands. -/
theorem calm_applyAdvance (a : Nat) (s : State) : Calm s (applyAdvance a s) := by
  unfold applyAdvance
  split
  · next c _ =>
    simp only
    refine .trans ?_ (.trans (calm_advanceEntry ..) (calm_grantAttempt _))
    have h : ∀ m : Moving, Calm m.s (advancePlayers a (takePoints c a (8 * (moveItems s).length) m).windows
        (advanceLoopMeas c.maxBag a (mapBags (wrapEdge c.len) (takePoints c a (8 * (moveItems s).length) m).s))) :=
      fun m => .trans (calm_takePoints ..) (.trans (.mapBags _ (wrapEdge c.len))
        (.trans (calm_advanceLoopMeas ..) (calm_advancePlayers ..)))
    split
    · exact .trans (.mapBags s _) (.trans (h { items := _, windows := _, taken := [], s := _ }) (calm_advanceInduct ..))
    · exact .trans (.mapBags s _) (h { items := _, windows := _, taken := [], s := _ })
  · exact .refl _

/-! ### Cages and chute eyes -/

theorem calm_pushCagesig (c : Nat) (g : CageSig) (s : State) : Calm s (pushCagesig c g s) := by
  unfold pushCagesig
  split
  · exact .control ..
  · exact .refl _

theorem calm_cageBecomesFull (c : Nat) (w : FullCause) (s : State) : Calm s (cageBecomesFull c w s) := by
  unfold cageBecomesFull
  simp only
  have h := Calm.trans (calm_modifyCage c (fun g => { g with state := .full, cause := w }) s fun _ => .inl rfl)
    (.trans (calm_disarmAll (armedAt (modifyCage c (fun g => { g with state := .full, cause := w }) s) c) _)
      (calm_pushCagesig c .full _))
  split
  · exact .trans h (.report ..)
  · exact h

theorem calm_closeCage (c : Nat) (r : Chute) (s : State) : Calm s (closeCage c r s) := by
  unfold closeCage
  extract_lets s1 h s2
  have h2 : Calm s1 s2 :=
    .trans (.closed s1 h) (calm_modifyCage c (fun _ => absentCage) _ fun _ => .inr rfl)
  refine .trans (.report s _) (.trans h2 (.trans (calm_pushCagesig c .closed s2) (calm_modifyChute c _ _ ?_ ?_ ?_)))
  · intro r; split <;> rfl
  · intro r; split <;> rfl
  · intro r; split <;> exact .inl rfl

theorem calm_removeCage (c : Nat) (r : Chute) (s : State) : Calm s (removeCage c r s) :=
  .trans (calm_foldl _ _ _ fun _ i _ => calm_disarm i _) (.trans (calm_closeCage ..) (calm_offerBags ..))

theorem calm_openCage (c i : Nat) (s : State) : Calm s (openCage c i s) :=
  .trans (calm_modifyCage _ _ _ fun _ => .inr rfl) (calm_pushCagesig ..)

theorem calm_cagePresent (c i : Nat) (r : Chute) (s : State) : Calm s (cagePresent c i r s) := by
  unfold cagePresent
  split
  · exact calm_withRounds _ s (calm_openCage c i s)
  · exact .trans (calm_withRounds _ s (calm_removeCage c r s)) (calm_withRounds _ _ (calm_openCage c i _))

theorem calm_cageFullOn (c : Nat) (r : Chute) (s : State) : Calm s (cageFullOn c r s) := by
  have h : Calm s (modifyCage c (fun g => { g with sensor := true }) s) := calm_modifyCage c _ s fun _ => .inl rfl
  unfold cageFullOn
  split
  · exact .refl s
  · exact calm_withRounds _ s (.trans h (calm_cageBecomesFull c .sensor _))
  · exact h

theorem calm_cageFullOff (c : Nat) (r : Chute) (s : State) : Calm s (cageFullOff c r s) := by
  have h : Calm s (modifyCage c (fun g => { g with sensor := false }) s) := calm_modifyCage c _ s fun _ => .inl rfl
  have h2 : Calm s (modifyCage c (fun g => { g with sensor := false, state := .opened, cause := .none }) s) :=
    calm_modifyCage c _ s fun _ => .inl rfl
  unfold cageFullOff
  split
  · exact .refl s
  · exact h
  · split
    · exact calm_withRounds _ s (.trans h2 (calm_pushCagesig c .loading _))
    · exact h

theorem calm_cageRemoved (c : Nat) (r : Chute) (s : State) : Calm s (cageRemoved c r s) := by
  unfold cageRemoved
  split
  · exact .refl _
  · exact calm_withRounds _ _ (calm_removeCage ..)

theorem calm_takeCage (c : Nat) (e : CageEvent) (s : State) : Calm s (takeCage c e s) := by
  unfold takeCage
  repeat' split
  · exact calm_cagePresent ..
  · exact calm_cageFullOn ..
  · exact calm_cageFullOff ..
  · exact calm_cageRemoved ..
  · exact .refl _
  · exact .refl _

theorem calm_cabinDoneTest (o : Owned) (c i : Nat) (s : State) : Calm s (cabinDoneTest o c i s) := by
  unfold cabinDoneTest
  repeat' split
  · exact .trans (calm_tallyUpdate ..) (.report ..)
  · exact .refl _
  · exact .refl _

theorem calm_countFull (c : Nat) (s : State) : Calm s (countFull c s) := by
  unfold countFull
  repeat' split
  · exact calm_cageBecomesFull ..
  · exact .refl _
  · exact .refl _

theorem landClass_keeps (t : Option Target) (r : Chute) :
    (landClass t r).role = r.role ∧ (landClass t r).capacity = r.capacity ∧ (landClass t r).cage = r.cage := by
  unfold landClass
  repeat' split
  all_goals exact ⟨rfl, rfl, rfl⟩

theorem calm_loadBag (i c k : Nat) (b : Bag) (o : Owned) (s : State) (r : Chute) (hr : chuteAt s c = some r)
    (hi : ∃ e ∈ queueAt s c, e.bag = i) :
    Calm s (loadBag i c k b o (setQueue c (removeEntry i (queueAt s c)) s)) := by
  unfold loadBag
  extract_lets s1 s2 s3
  have h1 : Calm s s1 := .trans (.land s i c r o.code hr hi)
    (calm_modifyChute c _ _ (fun r => (landClass_keeps _ r).1) (fun r => (landClass_keeps _ r).2.1)
      fun r => .inl (by rw [(landClass_keeps b.target r).2.2]))
  have h2 : Calm s1 s2 := calm_tallyUpdate ..
  have h3 : Calm s2 s3 := calm_freeBag ..
  exact .trans h1 (.trans h2 (.trans h3 (.trans (calm_cabinDoneTest o c k s3) (calm_countFull c _))))

theorem calm_landBag (i c : Nat) (r : Chute) (b : Bag) (s : State) (hr : chuteAt s c = some r)
    (hi : ∃ e ∈ queueAt s c, e.bag = i) :
    Calm s (landBag i c r b (setQueue c (removeEntry i (queueAt s c)) s)) := by
  unfold landBag
  split
  · split
    · exact .trans (.drop ..) (calm_freeBag ..)
    · split
      · exact calm_loadBag _ _ _ _ _ _ r hr hi
      · exact .drop ..
  · next hs =>
    split
    · exact .trans (.landStray s i c r _ _ _ hr hs hi) (calm_freeBag ..)
    · exact .drop ..
  · exact .trans (.drop ..) (calm_freeBag ..)
  · exact .drop ..

theorem mem_of_oldestFired {s : State} {c i : Nat} (h : oldestFired s c = some i) : ∃ e ∈ queueAt s c, e.bag = i := by
  unfold oldestFired at h
  obtain ⟨e, he, rfl⟩ := Option.map_eq_some_iff.mp h
  exact ⟨e, List.mem_of_find?_eq_some he, rfl⟩

theorem calm_confirmBag (i c : Nat) (s : State) (hi : ∃ e ∈ queueAt s c, e.bag = i) : Calm s (confirmBag i c s) := by
  unfold confirmBag
  split
  · next r b hr _ => exact calm_landBag _ _ _ _ _ hr hi
  · exact .refl _

theorem calm_unexplainedBlock (c : Nat) (s : State) : Calm s (unexplainedBlock c s) := by
  unfold unexplainedBlock
  simp only
  repeat' split
  · exact .trans (.count ..) (calm_modifyCage _ _ _ fun _ => .inl rfl)
  · exact .count ..
  · exact .count ..

theorem calm_chuteEye (c : Nat) (e : Edge) (s : State) : Calm s (chuteEye c e s) := by
  unfold chuteEye
  repeat' split
  · exact .refl _
  · next h => exact calm_withRounds _ _ (calm_confirmBag _ _ _ (mem_of_oldestFired h))
  · exact calm_unexplainedBlock ..

/-! ### Eyes -/

theorem calm_closeEntry (a : Nat) (s : State) : Calm s (closeEntry a s) := by
  unfold closeEntry
  split
  · exact .trans (calm_gate _ _ rfl) (calm_modifyBag ..)
  · exact .refl _

theorem calm_positionBag (c : LoopCfg) (i a : Nat) (s : State) : Calm s (positionBag c i a s) := by
  unfold positionBag
  extract_lets e s1
  have h1 : Calm s s1 := calm_modifyBag ..
  exact .trans h1 (.trans (calm_placeBag i 1 e s1) (calm_gate _ _ rfl))

theorem calm_routePaired (i : Nat) (s : State) : Calm s (routePaired i s) := by
  unfold routePaired
  split
  · exact calm_withRounds _ _ (calm_giveTarget ..)
  · exact .refl _

theorem calm_entryGhost (c : LoopCfg) (a : Nat) (s : State) : Calm s (entryGhost c a s) := by
  unfold entryGhost
  simp only
  split
  · next h => exact .trans (.count ..) (.trans (calm_createBag _ _ _ _ h) (calm_gate _ _ rfl))
  · exact .count ..

theorem calm_entryBlock (c : LoopCfg) (a : Nat) (s : State) : Calm s (entryBlock c a s) := by
  unfold entryBlock
  simp only
  refine .trans (calm_closeEntry a s) ?_
  split
  · exact .trans (calm_positionBag ..) (.trans (calm_routePaired ..) (calm_grantAttempt _))
  · exact .trans (calm_entryGhost ..) (calm_grantAttempt _)

theorem calm_entryClear (a : Nat) (s : State) : Calm s (entryClear a s) := by
  unfold entryClear
  split
  · exact .trans (calm_closeEntry ..) (calm_grantAttempt _)
  · exact .refl _

theorem calm_checkCrossings (c : LoopCfg) (i e0 e1 : Nat) (err : Int) (s : State) :
    Calm s (checkCrossings c i e0 e1 err s) := by
  unfold checkCrossings
  split
  · split
    · extract_lets s1 s2
      have h1 : Calm s s1 := calm_setExpEye ..
      refine .trans h1 (.trans ?_ (calm_lapMark i s2))
      unfold s2
      split
      · exact calm_disarm i s1
      · exact calm_missCore i s1
      · exact .refl s1
    · split
      · split
        · exact .trans (calm_disarm i s) (calm_offerBag i _)
        · exact .refl s
      · split
        · exact .trans (calm_missCore i s) (calm_offerBag i _)
        · exact .refl s
      · exact .refl s
  · exact .refl s

theorem calm_matchBag (c : LoopCfg) (k q a i : Nat) (err : Int) (s : State) : Calm s (matchBag c k q a i err s) := by
  unfold matchBag
  split
  · extract_lets e0 e1 s1 s2 s3
    have h1 : Calm s s1 := calm_modifyBag ..
    have h2 : Calm s1 s2 := calm_placeBag ..
    refine .trans h1 (.trans h2 (.trans ?_ (.trans (calm_withRounds _ s3 (calm_checkCrossings c i e0 e1 err s3))
      (calm_grantAttempt _))))
    unfold s3
    split
    · exact .refl s2
    · exact calm_setMeasure k _ s2
  · exact .refl s

theorem calm_loopGhost (c : LoopCfg) (k q a : Nat) (s : State) : Calm s (loopGhost c k q a s) := by
  unfold loopGhost
  simp only
  split
  · next h => exact .trans (.count ..) (.trans (calm_createBag _ _ _ _ h) (.trans (calm_setMeasure ..) (calm_grantAttempt _)))
  · exact .count ..

theorem calm_loopBlock (c : LoopCfg) (k q a : Nat) (s : State) : Calm s (loopBlock c k q a s) := by
  unfold loopBlock
  simp only
  refine .trans (calm_setMeasure k none s) ?_
  split
  · exact calm_matchBag ..
  · exact calm_loopGhost ..

theorem calm_loopClear (c : LoopCfg) (k a : Nat) (s : State) : Calm s (loopClear c k a s) := by
  unfold loopClear
  split
  · exact .trans (calm_setMeasure ..) (.trans (calm_modifyBag ..) (calm_grantAttempt _))
  · exact .refl _

theorem calm_handEye (c : LoopCfg) (id : EyeId) (e : Edge) (a : Nat) (s : State) : Calm s (handEye c id e a s) := by
  unfold handEye
  repeat' split
  · exact calm_entryBlock ..
  · exact calm_entryClear ..
  · exact calm_loopBlock ..
  · exact .refl _
  · exact calm_loopClear ..
  · exact calm_chuteEye ..

theorem calm_stampOf (q : Nat) (s : State) : Calm s (stampOf q s).2 := calm_pick ..

theorem calm_takeEye (id : EyeId) (e : Edge) (q : Nat) (s : State) : Calm s (takeEye id e q s) := by
  have h := calm_stampOf q s
  unfold takeEye
  split
  · exact .count ..
  · split
    · split
      · next hs => rw [hs] at h; exact .trans h (calm_handEye ..)
      · next hs => rw [hs] at h; exact .trans h (.count ..)
    · exact .count ..

/-! ### Resolver and keying -/

theorem calm_countMisreads (cs : List TagCode) (s : State) : Calm s (countMisreads cs s) :=
  calm_foldl _ _ _ fun _ _ _ => .count ..

theorem calm_resolveCode (i : Nat) (code : TagCode) (s : State) : Calm s (resolveCode i code s).2 := by
  unfold resolveCode
  repeat' split
  · exact .refl _
  · exact .refl _
  · exact .refl _
  · exact .trans (calm_tallyUpdate ..) (calm_modifyBag ..)

theorem calm_resolveBag (i : Nat) (b : Bag) (code : TagCode) (s : State) : Calm s (resolveBag i b code s) := by
  unfold resolveBag
  simp only
  split
  · exact calm_resolveCode ..
  · exact .trans (calm_resolveCode ..) (calm_giveTarget ..)

theorem calm_scanOutcome (i : Nat) (b : Bag) (v : List TagCode) (s : State) : Calm s (scanOutcome i b v s) := by
  unfold scanOutcome
  repeat' split
  · exact calm_giveTarget ..
  · exact .refl _
  · exact .refl _
  · exact calm_resolveBag ..
  · exact calm_giveTarget ..
  · exact .refl _

theorem calm_scanBag (i : Nat) (cs : List TagCode) (s : State) : Calm s (scanBag i cs s) := by
  unfold scanBag
  split
  · exact .trans (calm_countMisreads ..) (.trans (calm_modifyBag ..) (calm_scanOutcome ..))
  · exact .refl _

theorem calm_takeScan (r q : Nat) (cs : List TagCode) (s : State) : Calm s (takeScan r q cs s) := by
  have h := calm_stampOf q s
  unfold takeScan
  split
  · exact .count ..
  · split
    · exact .count ..
    · split
      · next hs =>
        rw [hs] at h
        refine .trans h ?_
        split
        · exact calm_withRounds _ _ (calm_scanBag ..)
        · exact .count ..
      · next hs => rw [hs] at h; exact .trans h (.count ..)

theorem calm_strayHeld (code : TagCode) (s : State) : Calm s (strayHeld code s) := by
  unfold strayHeld
  repeat' split
  · exact calm_withRounds _ _ (calm_giveTarget ..)
  · exact .refl _
  · exact .refl _

theorem calm_ackHold (a : Nat) (c : TagCode) (st : HoldStatus) (s : State) : Calm s (ackHold a c st s) := .control ..

theorem calm_ackKeyin (a : Nat) (n : BitVec 16) (st : KeyinStatus) (s : State) : Calm s (ackKeyin a n st s) :=
  .control ..

theorem calm_keyinEffect (n : Nat) (r : KeyinStatus × Option Owned) (s : State) : Calm s (keyinEffect n r s) := by
  unfold keyinEffect
  split
  · exact .count ..
  · exact .trans (calm_tallyUpdate ..) (calm_keyStray ..)
  · exact .refl _

theorem calm_takeKeyinCode (a : Nat) (n : BitVec 16) (c : TagCode) (s : State) : Calm s (takeKeyinCode a n c s) := by
  unfold takeKeyinCode
  split
  · exact calm_ackKeyin ..
  · exact .trans (calm_keyinEffect ..) (calm_ackKeyin ..)

theorem calm_releaseKeyed (e : StrayEntry) (s : State) : Calm s (releaseKeyed e s) := by
  unfold releaseKeyed
  split
  · exact calm_tallyUpdate ..
  · exact .refl _

theorem calm_takeKeyinReject (a : Nat) (n : BitVec 16) (s : State) : Calm s (takeKeyinReject a n s) := by
  unfold takeKeyinReject
  split
  · exact calm_ackKeyin ..
  · exact .trans (calm_releaseKeyed ..) (.trans (calm_removeStray ..) (calm_ackKeyin ..))

end Sys2Proof.Machine
end

