-- ==== Sys2Proof/Laws/Commands.lean ====
section
/-! SUPPORT. How a command's effect is shown: the effect of an event, of a request that is taken, and of a field frame that
is attributed, each said once. -/

namespace Sys2Proof.Machine

/-- A command that is an event gives whatever its effect is equal to. -/
theorem gives_event {f : State → State} {s u : State} (h : s.resetLow = false) (hf : f s = u) : Gives (event f s) u := by
  rw [← hf]
  exact event_gives s f h

/-- An outcome that gives a state gives every state equal to it but for the choice of LINE OUT. -/
theorem Gives.of_still {o : Host.Outcome State Fault Refusal} {e e' : State} (g : Gives o e) (h : e.still = e'.still) :
    Gives o e' := by
  obtain ⟨t, ht, hs⟩ := g
  exact ⟨t, ht, hs.trans h⟩

/-- A slot put twice holds what was put last. -/
theorem tablePut_twice {α : Type} [DecidableEq α] (d : α) (t : Table α) (i : Nat) (v w : α) (hv : v ≠ d) (hw : w ≠ d) :
    tablePut d (tablePut d t i v) i w = tablePut d t i w := by
  induction t with
  | nil => simp [tablePut, hv, hw]
  | cons e r ih =>
    obtain ⟨j, x⟩ := e
    by_cases h1 : i < j
    · simp [tablePut, h1, hv, hw]
    · by_cases h2 : i = j
      · subst h2; simp [tablePut, hv, hw]
      · simp [tablePut, h1, h2, ih]

/-- A slot just claimed is EXECUTING. -/
theorem tableGet_put_self {α : Type} [DecidableEq α] (d : α) (t : Table α) (i : Nat) (v : α) (hv : v ≠ d) :
    tableGet d (tablePut d t i v) i = v := by
  induction t with
  | nil => simp [tablePut, tableGet, hv]
  | cons e r ih =>
    obtain ⟨j, x⟩ := e
    by_cases h1 : i < j
    · simp [tablePut, tableGet, h1, hv]
    · by_cases h2 : i = j
      · subst h2; simp [tablePut, tableGet, hv]
      · simp [tablePut, tableGet, h1, h2, Ne.symm h2, ih]

/-- The reply built in the slot a request has claimed stands as withReply says, whatever the request did elsewhere. -/
theorem buildReply_claimed (k : Nat) (tag kind : Byte) (st : Status) (res : List Byte) (u : State) :
    buildReply k st res (claimSlot k tag kind u) = withReply k tag kind st res u := by
  unfold buildReply claimSlot withReply
  rw [tableGet_put_self _ _ _ _ (by simp)]
  simp only []
  rw [tablePut_twice _ _ _ _ _ (by simp) (by simp)]
  rfl

/-- The effect of a request that is taken and answered: its work leaves the slot claimed, and the reply is built. -/
theorem takeReq_answered {s u : State} {k : Nat} {tag kind : Byte} {work : Nat → State → State × Answer} {st : Status}
    {res : List Byte} (h : Takes s k)
    (hw : work k (claimSlot k tag kind s) = (claimSlot k tag kind u, some (st, res))) :
    takeReq tag kind work s = withReply k tag kind st res u := by
  unfold takeReq
  rw [if_pos h.1.2, h.2.1]
  have hr : (claimSlot k tag kind s).mgmt.restart.isSome = false := by
    show s.mgmt.restart.isSome = false
    rw [h.2.2]
    rfl
  simp only [hr, Bool.false_eq_true, if_false, hw, finishRequest]
  exact buildReply_claimed ..

/-- The effect of a request that is taken and not yet answered. -/
theorem takeReq_executing {s u : State} {k : Nat} {tag kind : Byte} {work : Nat → State → State × Answer} (h : Takes s k)
    (hw : work k (claimSlot k tag kind s) = (u, none)) : takeReq tag kind work s = u := by
  unfold takeReq
  rw [if_pos h.1.2, h.2.1]
  have hr : (claimSlot k tag kind s).mgmt.restart.isSome = false := by
    show s.mgmt.restart.isSome = false
    rw [h.2.2]
    rfl
  simp only [hr, Bool.false_eq_true, if_false, hw, finishRequest]

/-- The effect of a field frame under an entry whose role may send it: its delivery. -/
theorem takeField_attributed {s : State} {src : Byte} {role : NodeRole} {m : FieldMsg} (h : Attributed s src role)
    (hr : roleSends role (fieldKindOf m) = true) : takeField src m s = deliver src.toNat role m s := by
  obtain ⟨⟨_, ho⟩, h0, h1, h2, e, he, rfl⟩ := h
  unfold takeField fieldFrame
  rw [if_pos ho, if_neg h1, if_neg h0, h2, he]
  simp only [Option.isSome_none, Bool.false_eq_true, if_false, hr, if_true]

/-- A counter raised by one keeps the rest: pushTransit says what withForwarded says. -/
theorem pushTransit_eq (bytes : List Byte) (s : State) : pushTransit bytes s = withForwarded bytes s := by
  unfold withForwarded pushTransit lineTransit
  split
  · rfl
  · rfl

theorem pushControl_eq (dest : Nat) (m : CtrlMsg) (s : State) :
    pushControl { dest := dest, msg := m } s = withControl dest m s := by
  unfold withControl pushControl lineControl
  split <;> rfl

theorem pushReport_eq (r : Report) (s : State) : pushReport r s = withReport r s := by
  unfold withReport pushReport mgmtReport
  split <;> rfl

end Sys2Proof.Machine
end

