-- ==== Sys2Proof/Laws/Keeps.lean ====
section
/-! SUPPORT. What a calm work keeps: the tracker, the hold list, the Node Table, the waiting commands, the transit queue, the
reply slots and the frame on LINE OUT; and the invariants of Safety.lean. -/

namespace Sys2Proof.Machine

/-- What a calm work leaves as it was. -/
structure SameCore (s t : State) : Prop where
  pending : t.pending = s.pending
  resetLow : t.resetLow = s.resetLow
  nodes : t.nodes = s.nodes
  tracker : t.tracker = s.tracker
  holds : t.holds = s.holds
  nodeAddr : t.line.nodeAddr = s.line.nodeAddr
  transit : t.line.transit = s.line.transit
  slots : t.line.slots = s.line.slots
  readyOrder : t.line.readyOrder = s.line.readyOrder
  runCount : t.line.runCount = s.line.runCount
  sending : t.line.sending = s.line.sending
  sortHold : t.mgmt.sortHold = s.mgmt.sortHold
  restart : t.mgmt.restart = s.mgmt.restart

theorem SameCore.rfl' (s : State) : SameCore s s := ⟨rfl, rfl, rfl, rfl, rfl, rfl, rfl, rfl, rfl, rfl, rfl, rfl, rfl⟩

theorem SameCore.of_eq {s t : State} (h1 : t.pending = s.pending) (h2 : t.resetLow = s.resetLow)
    (h3 : t.nodes = s.nodes) (h4 : t.tracker = s.tracker) (h5 : t.holds = s.holds) (h6 : t.line = s.line)
    (h7 : t.mgmt.sortHold = s.mgmt.sortHold) (h8 : t.mgmt.restart = s.mgmt.restart) : SameCore s t :=
  ⟨h1, h2, h3, h4, h5, congrArg Line.nodeAddr h6, congrArg Line.transit h6, congrArg Line.slots h6,
    congrArg Line.readyOrder h6, congrArg Line.runCount h6, congrArg Line.sending h6, h7, h8⟩

theorem SameCore.trans {s t u : State} (h : SameCore s t) (g : SameCore t u) : SameCore s u :=
  ⟨g.pending.trans h.pending, g.resetLow.trans h.resetLow, g.nodes.trans h.nodes, g.tracker.trans h.tracker,
    g.holds.trans h.holds, g.nodeAddr.trans h.nodeAddr, g.transit.trans h.transit, g.slots.trans h.slots,
    g.readyOrder.trans h.readyOrder, g.runCount.trans h.runCount, g.sending.trans h.sending,
    g.sortHold.trans h.sortHold, g.restart.trans h.restart⟩

theorem sameCore_setSailing (i : Nat) (g : Sailing) (s : State) : SameCore s (setSailing i g s) := by
  unfold setSailing
  split
  · exact .of_eq rfl rfl rfl rfl rfl rfl rfl rfl
  · exact .of_eq rfl rfl rfl rfl rfl rfl rfl rfl

theorem sameCore_pushControl (f : CtrlFrame) (s : State) : SameCore s (pushControl f s) := by
  unfold pushControl lineControl
  split
  · exact ⟨rfl, rfl, rfl, rfl, rfl, rfl, rfl, rfl, rfl, rfl, rfl, rfl, rfl⟩
  · exact ⟨rfl, rfl, rfl, rfl, rfl, rfl, rfl, rfl, rfl, rfl, rfl, rfl, rfl⟩

theorem sameCore_pushReport (r : Report) (s : State) : SameCore s (pushReport r s) := by
  unfold pushReport mgmtReport
  split
  · exact .of_eq rfl rfl rfl rfl rfl rfl rfl rfl
  · exact .of_eq rfl rfl rfl rfl rfl rfl rfl rfl

theorem sameCore_modifyChute (c : Nat) (f : Chute → Chute) (s : State) : SameCore s (modifyChute c f s) := by
  unfold modifyChute
  split
  · exact .of_eq rfl rfl rfl rfl rfl rfl rfl rfl
  · exact .rfl' s

/-- The frame of every calm work. -/
theorem Calm.sameCore {s t : State} (h : Calm s t) : SameCore s t := by
  induction h with
  | refl s => exact .rfl' s
  | trans _ _ h g => exact h.trans g
  | sailing s i g _ => exact sameCore_setSailing i g s
  | control s f => exact sameCore_pushControl f s
  | report s r => exact sameCore_pushReport r s
  | land s i c r code _ _ =>
    exact SameCore.trans (t := setQueue c (removeEntry i (queueAt s c)) s)
      (.of_eq rfl rfl rfl rfl rfl rfl rfl rfl) (sameCore_modifyChute ..)
  | _ => exact .of_eq rfl rfl rfl rfl rfl rfl rfl rfl

/-! ### The tables stay in canonical form -/

theorem TablesWf.setSailing {s : State} (w : TablesWf s) (i : Nat) (g : Sailing)
    (h : SailingWf (sailingAt s i) → SailingWf g) : TablesWf (setSailing i g s) := by
  unfold Machine.setSailing
  unfold sailingAt at h
  split
  · next hi =>
    rw [if_pos hi] at h
    exact { w with sailing0 := h w.sailing0 }
  · next hi =>
    rw [if_neg hi] at h
    exact { w with sailing1 := h w.sailing1 }

theorem mapBags_wf (f : Bag → Bag) (t : Table (Option Bag)) (h : TableWf none t) :
    TableWf none (t.map fun (i, o) => (i, o.map f)) := by
  constructor
  · rw [List.map_map]
    exact h.1
  · intro e he
    obtain ⟨x, hx, rfl⟩ := List.mem_map.mp he
    have := h.2 x hx
    cases hx2 : x.2 with
    | none => exact absurd hx2 this
    | some b => simp [hx2]

theorem TablesWf.pushControl {s : State} (w : TablesWf s) (f : CtrlFrame) : TablesWf (pushControl f s) := by
  have := (sameCore_pushControl f s).slots
  exact { w with slots := by rw [this]; exact w.slots }

theorem TablesWf.modifyChute {s : State} (w : TablesWf s) (c : Nat) (f : Chute → Chute) :
    TablesWf (modifyChute c f s) := by
  unfold Machine.modifyChute
  split
  · exact { w with chutes := tablePut_wf _ _ _ _ w.chutes }
  · exact w

theorem TablesWf.setQueue {s : State} (w : TablesWf s) (c : Nat) (q : List QEntry) : TablesWf (setQueue c q s) :=
  { w with queues := tablePut_wf _ _ _ _ w.queues }

theorem Calm.tablesWf {s t : State} (h : Calm s t) (w : TablesWf s) : TablesWf t := by
  induction h with
  | refl s => exact w
  | trans _ _ h g => exact g (h w)
  | choices s n => exact { w with }
  | bag s i o => exact { w with bags := tablePut_wf _ _ _ _ w.bags }
  | mapBags s f => exact { w with bags := mapBags_wf _ _ w.bags }
  | meas s m h => exact { w with loopMeas := h w.loopMeas }
  | gate s f h => exact { w with requests := h w.requests }
  | sailing s i g h => exact w.setSailing i g h
  | player s p r => exact { w with players := tablePut_wf _ _ _ _ w.players }
  | trigger s l o => exact { w with lines := tablePut_wf _ _ _ _ w.lines }
  | noTriggers s => exact { w with lines := nil_wf _ }
  | strays s x h => exact { w with }
  | control s f => exact w.pushControl f
  | report s r => exact { w with }
  | count s c => exact { w with }
  | chute s c r r' _ _ _ _ => exact { w with chutes := tablePut_wf _ _ _ _ w.chutes }
  | arm s i c b r _ _ _ _ =>
    exact { w with bags := tablePut_wf _ _ _ _ w.bags, queues := tablePut_wf _ _ _ _ w.queues }
  | drop s i c => exact w.setQueue _ _
  | rank s i c => exact w.setQueue _ _
  | closed s h => exact { w with }
  | land s i c r code _ _ => exact (w.setQueue _ _).modifyChute _ _
  | landStray s i c r a b d _ _ _ => exact { w.setQueue c (removeEntry i (queueAt s c)) with }

/-! ### The bounds -/

theorem satInc_le (n : Nat) : satInc n ≤ 65535 := Nat.min_le_left ..

theorem bumpCounters_bounded (c : Counter) (k : Counters) (h : CountersBounded k) :
    CountersBounded (bumpCounters c k) := by
  obtain ⟨h1, h2, h3, h4, h5, h6, h7, h8, h9, h10, h11, h12, h13, h14, h15, h16⟩ := h
  cases c <;>
    exact ⟨by first | exact h1 | exact satInc_le _, by first | exact h2 | exact satInc_le _,
      by first | exact h3 | exact satInc_le _, by first | exact h4 | exact satInc_le _,
      by first | exact h5 | exact satInc_le _, by first | exact h6 | exact satInc_le _,
      by first | exact h7 | exact satInc_le _, by first | exact h8 | exact satInc_le _,
      by first | exact h9 | exact satInc_le _, by first | exact h10 | exact satInc_le _,
      by first | exact h11 | exact satInc_le _, by first | exact h12 | exact satInc_le _,
      by first | exact h13 | exact satInc_le _, by first | exact h14 | exact satInc_le _,
      by first | exact h15 | exact satInc_le _, by first | exact h16 | exact satInc_le _⟩

theorem Bounded.bump {s : State} (b : Bounded s) (c : Counter) : Bounded (bump c s) :=
  { b with counters := bumpCounters_bounded c _ b.counters }

theorem Bounded.pushControl {s : State} (b : Bounded s) (f : CtrlFrame) : Bounded (pushControl f s) := by
  unfold Machine.pushControl lineControl
  split
  · next h => exact { b with control := by simp only [List.length_append, List.length_singleton]; omega }
  · exact { b with }

theorem Bounded.pushReport {s : State} (b : Bounded s) (r : Report) : Bounded (pushReport r s) := by
  unfold Machine.pushReport mgmtReport
  split
  · next h => exact { b with reports := by simp only [List.length_append, List.length_singleton]; omega }
  · exact { b with }

theorem Bounded.setSailing {s : State} (b : Bounded s) (i : Nat) (g : Sailing) : Bounded (setSailing i g s) := by
  unfold Machine.setSailing
  split
  · exact { b with }
  · exact { b with }

theorem Bounded.modifyChute {s : State} (b : Bounded s) (c : Nat) (f : Chute → Chute) :
    Bounded (modifyChute c f s) := by
  unfold Machine.modifyChute
  split
  · exact { b with }
  · exact b

theorem Calm.bounded {s t : State} (h : Calm s t) (b : Bounded s) : Bounded t := by
  induction h with
  | refl s => exact b
  | trans _ _ h g => exact g (h b)
  | sailing s i g h => exact b.setSailing i g
  | control s f => exact b.pushControl f
  | report s r => exact b.pushReport r
  | count s c => exact b.bump c
  | closed s h => exact { b with closedCages := by rw [List.length_take]; exact Nat.min_le_left .. }
  | land s i c r code _ _ =>
    have b' : Bounded (setQueue c (removeEntry i (queueAt s c)) s) := { b with }
    exact b'.modifyChute _ _
  | _ => exact { b with }

/-! ### The reservations -/

theorem length_removeEntry_le (i : Nat) (q : List QEntry) : (removeEntry i q).length ≤ q.length := by
  unfold removeEntry
  rw [List.length_map]
  exact List.length_filter_le ..

theorem length_removeEntry_lt (i : Nat) (q : List QEntry) (h : ∃ e ∈ q, e.bag = i) :
    (removeEntry i q).length < q.length := by
  unfold removeEntry
  rw [List.length_map, List.length_filter_lt_length_iff_exists]
  obtain ⟨e, he, rfl⟩ := h
  exact ⟨e, he, by simp⟩

theorem length_rankEntry (i : Nat) (q : List QEntry) : (rankEntry i q).length = q.length := by
  unfold rankEntry
  exact List.length_map ..

theorem length_insertEntry (s : State) (f : Nat) (e : QEntry) (q : List QEntry) :
    (insertEntry s f e q).length = q.length + 1 := by
  induction q with
  | nil => rfl
  | cons x xs ih =>
    unfold insertEntry
    split
    · rfl
    · simp [ih]

/-- The queues' lengths and the chutes' records alone decide the committed counts of the STRAY chutes. -/
theorem strayCommitted_eq {s t : State} (hc : ∀ c, chuteAt t c = chuteAt s c) (hq : ∀ c, committed t c = committed s c) :
    strayCommitted t = strayCommitted s := by
  unfold strayCommitted
  simp only [hc, hq]

/-- What one chute contributes to the committed counts of the STRAY chutes. -/
def strayShare (s : State) (c : Nat) : Nat :=
  match chuteAt s c with
  | some r => if r.role = .stray then committed s c else 0
  | none => 0

theorem sum_map_le {l : List Nat} {f g : Nat → Nat} (h : ∀ c ∈ l, f c ≤ g c) : (l.map f).sum ≤ (l.map g).sum := by
  induction l with
  | nil => exact Nat.le_refl _
  | cons a l ih =>
    have h1 := h a (by simp)
    have h2 := ih fun c hc => h c (by simp [hc])
    simp only [List.map_cons, List.sum_cons]
    omega

/-- A sum over distinct numbers where one term changes by d and the others do not grow. -/
theorem sum_map_step {l : List Nat} {f g : Nat → Nat} (c : Nat) (d : Nat) (hn : l.Nodup) (hc : f c ≤ g c + d)
    (h : ∀ k ∈ l, k ≠ c → f k ≤ g k) : (l.map f).sum ≤ (l.map g).sum + d := by
  induction l with
  | nil => simp
  | cons a l ih =>
    rw [List.nodup_cons] at hn
    simp only [List.map_cons, List.sum_cons]
    by_cases ha : a = c
    · subst ha
      have := sum_map_le (l := l) (f := f) (g := g) fun k hk => h k (by simp [hk]) (by
        rintro rfl
        exact hn.1 hk)
      omega
    · have h1 := h a (by simp) ha
      have h2 := ih hn.2 fun k hk => h k (by simp [hk])
      omega

/-- A sum over distinct numbers where the term of a number of the list falls and the others do not grow. -/
theorem sum_map_drop {l : List Nat} {f g : Nat → Nat} (c : Nat) (hn : l.Nodup) (hm : c ∈ l) (hc : f c < g c)
    (h : ∀ k ∈ l, k ≠ c → f k ≤ g k) : (l.map f).sum < (l.map g).sum := by
  induction l with
  | nil => simp at hm
  | cons a l ih =>
    rw [List.nodup_cons] at hn
    simp only [List.map_cons, List.sum_cons]
    by_cases ha : a = c
    · subst ha
      have := sum_map_le (l := l) (f := f) (g := g) fun k hk => h k (by simp [hk]) (by
        rintro rfl
        exact hn.1 hk)
      omega
    · have h1 := h a (by simp) ha
      have h2 := ih hn.2 (by simpa [Ne.symm ha] using hm) fun k hk => h k (by simp [hk])
      omega

theorem strayCommitted_share (s : State) : strayCommitted s = ((List.range 32).map (strayShare s)).sum := rfl

/-- The reservations stand when the chutes' records keep their roles and capacities, no cage's list and no committed
count grows, and the stray list does not grow. -/
theorem Reserved.of_le {s t : State} (r : Reserved s) (hq : ∀ c, committed t c ≤ committed s c)
    (hc : ∀ c x, chuteAt t c = some x → ∃ y, chuteAt s c = some y ∧ x.role = y.role ∧ x.capacity = y.capacity ∧
      x.cage.loaded.length ≤ y.cage.loaded.length)
    (hs : t.strays.entries.length ≤ s.strays.entries.length) : Reserved t where
  three c := Nat.le_trans (hq c) (r.three c)
  chutes c h := Nat.le_zero.mp (Nat.le_trans (hq c) (Nat.le_of_eq (r.chutes c h)))
  cages c x hx hr := by
    obtain ⟨y, hy, h1, h2, h3⟩ := hc c x hx
    have := r.cages c y hy (by rw [← h1]; exact hr)
    have := hq c
    omega
  strays := by
    have h : strayCommitted t ≤ strayCommitted s := by
      rw [strayCommitted_share, strayCommitted_share]
      refine sum_map_le fun c _ => ?_
      unfold strayShare
      cases hx : chuteAt t c with
      | none => exact Nat.zero_le _
      | some x =>
        obtain ⟨y, hy, h1, -, -⟩ := hc c x hx
        simp only [hy, ← h1]
        split
        · exact hq c
        · exact Nat.le_refl _
    have := r.strays
    omega

/-- Nothing of the reservations changes where chutes, queues and strays stand as they were. -/
theorem Reserved.of_eq {s t : State} (r : Reserved s) (hq : t.queues = s.queues) (hc : t.chutes = s.chutes)
    (hs : t.strays = s.strays) : Reserved t :=
  r.of_le (fun c => by unfold committed queueAt; rw [hq]) (fun c x hx => by
    refine ⟨x, ?_, rfl, rfl, Nat.le_refl _⟩
    unfold chuteAt at hx ⊢
    rw [← hc]
    exact hx) (by rw [hs])

theorem committed_setQueue {s : State} (w : TablesWf s) (c k : Nat) (q : List QEntry) :
    committed (setQueue c q s) k = if k = c then q.length else committed s k := by
  unfold committed
  rw [queueAt_setQueue s w.queues.1]
  split <;> rfl

/-- The chutes' records as they stand are matched with themselves. -/
theorem chutes_self (s : State) (c : Nat) (x : Chute) (h : chuteAt s c = some x) :
    ∃ y, chuteAt s c = some y ∧ x.role = y.role ∧ x.capacity = y.capacity ∧
      x.cage.loaded.length ≤ y.cage.loaded.length := ⟨x, h, rfl, rfl, Nat.le_refl _⟩

theorem Reserved.setQueue_le {s : State} (r : Reserved s) (w : TablesWf s) (c : Nat) (q : List QEntry)
    (h : q.length ≤ committed s c) : Reserved (setQueue c q s) :=
  r.of_le (fun k => by
    rw [committed_setQueue w]
    split
    · next hk => subst hk; exact h
    · exact Nat.le_refl _) (fun k x hx => chutes_self s k x hx) (Nat.le_refl _)

/-- A bag armed at an available chute keeps the reservations (R125, R126). -/
theorem Reserved.arm {s : State} (v : Reserved s) (w : TablesWf s) (i c : Nat) (b : Bag) (r : Chute) (hc : c < 32)
    (ha : available s c = true) (hr : chuteAt s c = some r) (hq : committed s c < 3) : Reserved (armBag i c b r s) := by
  have hcom : ∀ k, committed (armBag i c b r s) k = if k = c then committed s c + 1 else committed s k := by
    intro k
    show committed (setQueue c (insertEntry s (trialFire s b r) { bag := i, rank := none } (queueAt s c)) s) k = _
    rw [committed_setQueue w, length_insertEntry]
    rfl
  have hch : ∀ k, chuteAt (armBag i c b r s) k = chuteAt s k := fun _ => rfl
  have hst : (armBag i c b r s).strays = s.strays := rfl
  unfold available at ha
  rw [hr] at ha
  simp only [Bool.and_eq_true] at ha
  constructor
  · intro k
    rw [hcom]
    split
    · omega
    · exact v.three k
  · intro k hk
    rw [hcom, if_neg (by omega)]
    exact v.chutes k hk
  · intro k x hx hs
    rw [hch] at hx
    rw [hcom]
    split
    · next hk =>
      subst hk
      rw [hr] at hx
      cases hx
      simp only [hs, Bool.and_eq_true, decide_eq_true_eq] at ha
      omega
    · exact v.cages k x hx hs
  · rw [hst]
    have hle : strayCommitted (armBag i c b r s) ≤ strayCommitted s + (if r.role = .stray then 1 else 0) := by
      rw [strayCommitted_share, strayCommitted_share]
      refine sum_map_step c _ List.nodup_range ?_ ?_
      · unfold strayShare
        rw [hch, hr]
        simp only [hcom, if_true]
        split <;> omega
      · intro k _ hk
        unfold strayShare
        rw [hch, hcom, if_neg hk]
    have hs := v.strays
    by_cases hrole : r.role = .stray
    · simp only [hrole, decide_eq_true_eq] at ha
      rw [if_pos hrole] at hle
      omega
    · rw [if_neg hrole] at hle
      omega

theorem Calm.reserved {s t : State} (h : Calm s t) (w : TablesWf s) (v : Reserved s) : Reserved t := by
  induction h with
  | refl s => exact v
  | trans h _ ih ig => exact ig (h.tablesWf w) (ih w v)
  | sailing s i g h =>
    unfold setSailing
    split
    · exact v.of_eq rfl rfl rfl
    · exact v.of_eq rfl rfl rfl
  | strays s x h => exact v.of_le (fun _ => Nat.le_refl _) (fun c x hx => chutes_self s c x hx) h
  | chute s c r r' h hr hc hl =>
    refine v.of_le (fun _ => Nat.le_refl _) (fun k x hx => ?_) (Nat.le_refl _)
    rw [chuteAt_setChute s w.chutes.1] at hx
    split at hx
    · next hk =>
      subst hk
      cases hx
      refine ⟨r, h, hr, hc, ?_⟩
      rcases hl with hl | hl
      · rw [hl]
      · rw [hl]; exact Nat.zero_le _
    · exact chutes_self s k x hx
  | arm s i c b r hc ha hr hq => exact v.arm w i c b r hc ha hr hq
  | drop s i c => exact v.setQueue_le w _ _ (length_removeEntry_le ..)
  | rank s i c => exact v.setQueue_le w _ _ (Nat.le_of_eq (length_rankEntry ..))
  | land s i c r code hr hi =>
    have hlt : (removeEntry i (queueAt s c)).length < committed s c := length_removeEntry_lt _ _ hi
    have w' := w.setQueue c (removeEntry i (queueAt s c))
    have v' := v.setQueue_le w c (removeEntry i (queueAt s c)) (Nat.le_of_lt hlt)
    have hr' : chuteAt (setQueue c (removeEntry i (queueAt s c)) s) c = some r := hr
    have hcom := committed_setQueue w c c (removeEntry i (queueAt s c))
    rw [if_pos rfl] at hcom
    have he : modifyCage c (fun g => { g with loaded := g.loaded ++ [code] })
        (setQueue c (removeEntry i (queueAt s c)) s) =
        setChute c { r with cage := { r.cage with loaded := r.cage.loaded ++ [code] } }
          (setQueue c (removeEntry i (queueAt s c)) s) := by
      unfold modifyCage modifyChute
      rw [hr']
    rw [he]
    have hch := fun k => chuteAt_setChute (setQueue c (removeEntry i (queueAt s c)) s) w'.chutes.1 c k
      { r with cage := { r.cage with loaded := r.cage.loaded ++ [code] } }
    constructor
    · exact v'.three
    · exact v'.chutes
    · intro k x hx hs
      rw [hch] at hx
      split at hx
      · next hk =>
        subst hk
        cases hx
        have := v.cages k r hr hs
        show (r.cage.loaded ++ [code]).length + committed (setQueue k (removeEntry i (queueAt s k)) s) k ≤ r.capacity
        rw [hcom, List.length_append, List.length_singleton]
        omega
      · exact v'.cages k x hx hs
    · have : strayCommitted (setChute c { r with cage := { r.cage with loaded := r.cage.loaded ++ [code] } }
          (setQueue c (removeEntry i (queueAt s c)) s)) ≤
          strayCommitted (setQueue c (removeEntry i (queueAt s c)) s) := by
        rw [strayCommitted_share, strayCommitted_share]
        refine sum_map_le fun k _ => ?_
        unfold strayShare
        rw [hch]
        split
        · next hk =>
          split at hk
          · next hkc =>
            subst hkc
            cases hk
            rw [hr']
            exact Nat.le_refl _
          · rw [hk]
            exact Nat.le_refl _
        · exact Nat.zero_le _
      have := v'.strays
      show s.strays.entries.length + _ ≤ 64
      have h2 : (setQueue c (removeEntry i (queueAt s c)) s).strays = s.strays := rfl
      rw [h2] at this
      omega
  | landStray s i c r a b d hr hs hi =>
    have hlt : (removeEntry i (queueAt s c)).length < committed s c := length_removeEntry_lt _ _ hi
    have v' := v.setQueue_le w c (removeEntry i (queueAt s c)) (Nat.le_of_lt hlt)
    have hcom := fun k => committed_setQueue w c k (removeEntry i (queueAt s c))
    have hc32 : c < 32 := by
      rcases Nat.lt_or_ge c 32 with h | h
      · exact h
      · have := v.chutes c h
        omega
    constructor
    · exact v'.three
    · exact v'.chutes
    · exact v'.cages
    · have hdrop : strayCommitted (setQueue c (removeEntry i (queueAt s c)) s) < strayCommitted s := by
        rw [strayCommitted_share, strayCommitted_share]
        refine sum_map_drop c List.nodup_range (List.mem_range.mpr hc32) ?_ ?_
        · unfold strayShare
          rw [chuteAt_setQueue, hr]
          simp only [hs, if_true]
          rw [hcom, if_pos rfl]
          exact hlt
        · intro k _ hk
          unfold strayShare
          rw [chuteAt_setQueue, hcom, if_neg hk]
      have hlen : ∀ (e : StrayEntry) (l : List StrayEntry), (insertStray e l).length = l.length + 1 := by
        intro e l
        induction l with
        | nil => rfl
        | cons x xs ih =>
          unfold insertStray
          split
          · rfl
          · simp [ih]
      have := v.strays
      show (insertStray _ s.strays.entries).length + strayCommitted (setQueue c (removeEntry i (queueAt s c)) s) ≤ 64
      rw [hlen]
      omega
  | _ => exact v.of_eq rfl rfl rfl

end Sys2Proof.Machine
end

