-- ==== Sys2Proof/Laws/Updates.lean ====
section
/-! SUPPORT. What every command can do, said once: the calm updates, and the updates of the Line Interface, the tracker, the
hold list, the requests and the resets. Every command's next state is reached by them (exec_upd), and so is every
step's (step_upd): an invariant that each of them keeps is kept by every step. -/

namespace Sys2Proof.Machine

/-- The state after is reached from the state before by the part's named updates. -/
inductive Upd : State → State → Prop where
  | calm {s t : State} : Calm s t → Upd s t
  | trans {s t u : State} : Upd s t → Upd t u → Upd s u
  | queue (s : State) (p : List Instr) : Upd s { s with pending := p }
  | transit (s : State) (f : List Byte) : Upd s (pushTransit f s)
  | relay (s : State) (f : List Byte) : Upd s { s with line := lineTransit f s.line }
  | claim (s : State) (i : Nat) (tag kind : Byte) (h : freeSlot s.line = some i) : Upd s (claimSlot i tag kind s)
  | reply (s : State) (i : Nat) (st : Status) (bs : List Byte) : Upd s (buildReply i st bs s)
  | send (s : State) (x : TxSource) (b : List Byte) (n : Nat) (h : s.line.runCount ≤ 8 → n ≤ 8) : Upd s (beginSend x b n s)
  | leave (s : State) (x : TxSource) : Upd s (leaveSource x s)
  | tracker (s : State) (f : Tracker → Tracker) (hd : s.tracker.debt ≤ 255 → (f s.tracker).debt ≤ 255)
      (hv : s.tracker.speed ≤ 16368 → (f s.tracker).speed ≤ 16368)
      (hh : s.tracker.history.length ≤ 16 → (f s.tracker).history.length ≤ 16) : Upd s (withTracker f s)
  | holdJoin (s : State) (c : TagCode) (hw : wellFormedCode c = true) (hn : c ∉ s.holds) (hl : s.holds.length < 32) :
      Upd s { s with holds := s.holds ++ [c] }
  | holdLeave (s : State) (p : TagCode → Bool) : Upd s { s with holds := s.holds.filter p }
  | sortHold (s : State) (b : Bool) : Upd s (setSortHold b s)
  | restarting (s : State) (o : Option Restarting) : Upd s { s with mgmt := { s.mgmt with restart := o } }
  | snapshot (s : State) : Upd s (clearSticky (zeroAll s))
  | nodes (s : State) (t : Table (Option NodeEntry)) (h : TableWf none s.nodes → TableWf none t) :
      Upd s { s with nodes := t }
  | profiles (s : State) (t : Table (List Segment)) (h : TableWf [] s.players.profiles → TableWf [] t) :
      Upd s { s with players := { s.players with profiles := t } }
  | newChute (s : State) (c : Nat) (r : Chute) (h : committed s c = 0) (hr : r.cage = absentCage) :
      Upd s (setChute c r s)
  | noQueues (s : State) : Upd s { s with closedCages := [], queues := [] }
  | noBags (s : State) : Upd s (restartBags s)
  | noStrays (s : State) : Upd s (restartStrays s)
  | powerOn (s : State) (a : Nat) :
      Upd s { Machine.powerOn a with pending := s.pending, choices := s.choices }
  | low (s : State) :
      Upd s { s with resetLow := true, line := { s.line with sending := none, slots := [], readyOrder := [] },
                     mgmt := { s.mgmt with reports := [] } }

theorem Upd.refl (s : State) : Upd s s := .calm (.refl s)

theorem upd_foldl {α : Type} (f : State → α → State) (l : List α) (s : State)
    (h : ∀ t a, a ∈ l → Upd t (f t a)) : Upd s (l.foldl f s) := by
  induction l generalizing s with
  | nil => exact .refl s
  | cons a l ih => exact .trans (h s a (by simp)) (ih (f s a) fun t b hb => h t b (by simp [hb]))

/-! ### LINE OUT -/

theorem upd_kickLineOut (s : State) : Upd s (kickLineOut s) := by
  have hm : Upd s (sendMgmt s) := by
    unfold sendMgmt
    split
    · exact .send s _ _ _ fun _ => Nat.zero_le _
    · exact .send s _ _ _ fun _ => Nat.zero_le _
    · exact .refl s
  unfold kickLineOut
  split
  · exact .refl s
  · unfold arbiterChoice
    split
    · exact .send s _ _ _ id
    · split
      · split
        · exact .send s _ _ _ fun _ => by omega
        · exact hm
      · exact .send s _ _ _ fun _ => Nat.zero_le _
    · exact hm

theorem upd_event (f : State → State) (s t : State) (hf : Upd s (f s)) (h : event f s = .next t) : Upd s t := by
  unfold event at h
  split at h
  · cases h; exact .refl s
  · cases h; exact .trans hf (upd_kickLineOut _)

/-! ### The tracker -/

theorem upd_tracker_same (f : Tracker → Tracker) (s : State) (hd : (f s.tracker).debt = s.tracker.debt)
    (hv : (f s.tracker).speed = s.tracker.speed) (hh : (f s.tracker).history = s.tracker.history) :
    Upd s (withTracker f s) :=
  .tracker s f (by rw [hd]; exact id) (by rw [hv]; exact id) (by rw [hh]; exact id)

theorem upd_moveBelt (a : Nat) (s : State) : Upd s (moveBelt a s) := by
  unfold moveBelt
  split
  · exact .refl s
  · exact .trans (upd_tracker_same _ s rfl rfl rfl) (.calm (calm_applyAdvance ..))

theorem length_pushHistory (e : HistEntry) (h : List HistEntry) : (pushHistory e h).length ≤ 16 := by
  unfold pushHistory
  rw [List.length_drop, List.length_append, List.length_singleton]
  omega

theorem upd_logSample (q a : Nat) (s : State) : Upd s (logSample q a s) :=
  .tracker s _ id id fun _ => length_pushHistory ..

theorem calm_markUncertain (s : State) : Calm s (markUncertain s) := .mapBags ..

theorem upd_enterBlind (s : State) : Upd s (enterBlind s) := by
  unfold enterBlind
  extract_lets s1
  have h1 : Upd s s1 := .trans (upd_tracker_same _ s rfl rfl rfl) (.calm (calm_markUncertain _))
  exact .trans h1 (.calm (.trans (calm_disarmAll _ s1) (.trans (calm_blindWindows _) (.report ..))))

theorem upd_loseTrack (s : State) : Upd s (loseTrack s) := by
  unfold loseTrack
  split
  · exact upd_enterBlind s
  · exact upd_tracker_same _ s rfl rfl rfl

/-- An action with its rounds is an update when the action is. -/
theorem upd_withRounds (f : State → State) (s : State) (h : Upd s (f s)) : Upd s (withRounds f s) :=
  .trans h (.calm (calm_roundsAt _ _ roundsDue_lt))

theorem upd_enterTracking (s : State) : Upd s (enterTracking s) :=
  .trans (upd_withRounds _ s (upd_tracker_same _ s rfl rfl rfl)) (.calm (.trans (calm_grantAttempt _) (.report ..)))

theorem upd_extrapolateAll (k q : Nat) (s : State) : Upd s (extrapolateAll k q s) :=
  upd_foldl _ _ s fun t _ _ => .trans (upd_moveBelt _ t) (upd_logSample _ _ _)

theorem upd_clampDelta (d : Int) (s : State) : Upd s (clampDelta d s).2 := by
  unfold clampDelta
  split
  · exact .calm (.count ..)
  · exact .refl s

theorem upd_applyDelta (d : Int) (s : State) : Upd s (applyDelta d s).2.2 := by
  unfold applyDelta
  split
  · extract_lets debt
    split
    · next h => exact .tracker s (fun t => { t with debt := debt }) (fun _ => h) id id
    · exact .trans (.tracker s (fun t => { t with debt := 0 }) (fun _ => Nat.zero_le _) id id) (upd_loseTrack _)
  · extract_lets n a
    refine .trans (.tracker s (fun t => { t with debt := t.debt - min n t.debt }) (fun h => ?_) id id) (upd_moveBelt a _)
    show s.tracker.debt - min n s.tracker.debt ≤ 255
    omega

theorem nextSpeed_le (v a : Nat) : nextSpeed v a ≤ 16368 := by
  unfold nextSpeed
  omega

theorem upd_processSample (q : Nat) (d : Int) (s : State) : Upd s (processSample q d s).2 :=
  .trans (upd_clampDelta d s) (.trans (upd_applyDelta _ _)
    (.trans (.tracker _ _ id (fun _ => nextSpeed_le ..) id) (upd_logSample ..)))

theorem upd_countClean (b : Bool) (s : State) : Upd s (countClean b s) := by
  unfold countClean
  split
  · split
    · split
      · exact upd_enterTracking s
      · exact upd_tracker_same _ s rfl rfl rfl
    · exact upd_tracker_same _ s rfl rfl rfl
  · exact .refl s

theorem upd_takeTrack (q : Nat) (d : Int) (s : State) : Upd s (takeTrack q d s) := by
  unfold takeTrack
  split
  · exact .refl s
  · split
    · unfold firstTrack
      exact .trans (upd_enterTracking s) (.trans (upd_processSample q d _)
        (upd_tracker_same (fun t => { t with expected := some ((q + 1) % 256), clean := 0, silence := true }) _ rfl rfl rfl))
    · unfold nextTrack
      extract_lets k s1
      split
      · exact .calm (.count ..)
      · have h1 : Upd s s1 := by
          unfold s1
          split
          · exact upd_loseTrack s
          · exact upd_extrapolateAll ..
        have h2 := upd_processSample q d s1
        split
        next o s2 e =>
        rw [e] at h2
        exact .trans h1 (.trans h2 (.trans (upd_countClean ..) (upd_tracker_same _ _ rfl rfl rfl)))

theorem upd_expireSilence (s : State) : Upd s (expireSilence s) := by
  unfold expireSilence
  split
  · exact upd_loseTrack s
  · exact .refl s

theorem upd_restartTracker (s : State) : Upd s (restartTracker s) :=
  .tracker s _ (fun _ => Nat.zero_le _) (fun _ => Nat.zero_le _) fun _ => Nat.zero_le _

/-! ### The hold list -/

theorem upd_takeHold (a : Nat) (c : TagCode) (s : State) : Upd s (takeHold a c s) := by
  unfold takeHold
  split
  · next hw =>
    split
    · exact .calm (calm_ackHold ..)
    · next hn =>
      split
      · next hl => exact .trans (.holdJoin s c hw hn hl) (.calm (.trans (calm_strayHeld ..) (calm_ackHold ..)))
      · exact .calm (calm_ackHold ..)
  · exact .calm (.trans (.count ..) (calm_ackHold ..))

theorem upd_takeRelease (a : Nat) (c : TagCode) (s : State) : Upd s (takeRelease a c s) := by
  unfold takeRelease
  split
  · split
    · exact .trans (.holdLeave s _) (.calm (calm_ackHold ..))
    · exact .calm (calm_ackHold ..)
  · exact .calm (.trans (.count ..) (calm_ackHold ..))

/-! ### Field frames -/

theorem upd_deliver (a : Nat) (r : NodeRole) (m : FieldMsg) (s : State) : Upd s (deliver a r m s) := by
  unfold deliver
  split
  · exact upd_takeTrack ..
  · split
    · exact .calm (calm_takeEye ..)
    · exact .calm (.count ..)
  · exact .calm (calm_takeScan ..)
  · split
    · exact .calm (calm_takeInduct ..)
    · exact .calm (.count ..)
  · split
    · exact .calm (calm_takeKeyinCode ..)
    · exact .calm (.count ..)
  · split
    · exact .calm (calm_takeKeyinReject ..)
    · exact .calm (.count ..)
  · exact upd_takeHold ..
  · exact upd_takeRelease ..
  · exact .calm (calm_takeCage ..)
  · exact .calm (calm_takeDrive ..)
  · exact .calm (.count ..)

theorem upd_fieldFrame (a : Nat) (k : Option FieldKind) (m : Option FieldMsg) (s : State) : Upd s (fieldFrame a k m s) := by
  unfold fieldFrame
  split
  · exact .refl s
  · split
    · split
      · split
        · exact upd_deliver ..
        · exact .calm (.count ..)
      · exact .calm (.count ..)
    · exact .calm (.count ..)

theorem upd_takeField (a : Byte) (m : FieldMsg) (s : State) : Upd s (takeField a m s) := by
  unfold takeField
  split
  · split
    · exact .refl s
    · split
      · exact .calm (.count ..)
      · exact upd_fieldFrame ..
  · exact .refl s

/-! ### The Manifest Store -/

theorem calm_setSailing (i : Nat) (g : Sailing) (s : State) (h : SailingWf (sailingAt s i) → SailingWf g) :
    Calm s (setSailing i g s) := .sailing s i g h

theorem emptyBank_wf : BankWf emptyBank := ⟨nil_wf _, nil_wf _⟩

theorem upd_reqCommit (k i : Nat) (c : BitVec 32) (s : State) : Upd s (reqCommit k i c s).1 := by
  unfold reqCommit
  split
  · split
    · exact .refl s
    · exact .calm (.sailing s i _ id)
  · exact .refl s

theorem stepSailing_wf (w : Walk) (g : Sailing) (h : SailingWf g) : SailingWf (stepSailing w g) := by
  unfold stepSailing
  extract_lets r
  split
  · exact ⟨h.1, putCabin_wf _ _ _ h.2⟩
  · exact ⟨h.1, putCabin_wf _ _ _ h.2⟩

theorem calm_walkStep (i : Nat) (s : State) : Calm s (walkStep i s) := by
  unfold walkStep
  split
  · split
    · exact .sailing s i _ (stepSailing_wf _ _)
    · exact .refl s
  · exact .refl s

theorem settleFresh_wf (s : State) (i : Nat) (fresh : List Nat) (b : Bank) (h : BankWf b) :
    BankWf (settleFresh s i fresh b) := by
  unfold settleFresh
  induction fresh generalizing b with
  | nil => exact h
  | cons p ps ih => exact ih _ (putCabin_wf _ _ _ h)

theorem upd_walkSwap (i : Nat) (s : State) : Upd s (walkSwap i s) := by
  unfold walkSwap
  split
  · next w _ =>
    split
    · extract_lets s1
      have h1 : Calm s s1 := .sailing s i _ fun h => ⟨settleFresh_wf _ _ _ _ h.2, h.1⟩
      refine .trans (.calm (.trans h1 (calm_withRounds _ s1 ?_))) (.reply ..)
      exact calm_foldl _ _ _ fun t x _ => calm_giveTarget ..
    · exact .refl s
  · exact .refl s

theorem upd_reqDiscard (i : Nat) (s : State) : Upd s (reqDiscard i s).1 := by
  unfold reqDiscard
  split
  · split
    · exact .refl s
    · exact .calm (.sailing s i _ fun h => ⟨h.1, emptyBank_wf⟩)
  · exact .refl s

theorem upd_reqErase (i : Nat) (s : State) : Upd s (reqErase i s).1 := by
  unfold reqErase
  repeat' split
  all_goals first | exact .refl s | exact .calm (.sailing s i _ fun _ => ⟨emptyBank_wf, emptyBank_wf⟩)

theorem calm_closeBags (i : Nat) (d : DeckSet) (s : State) : Calm s (closeBags i d s) :=
  calm_withRounds _ s (calm_foldl _ _ s fun _ k _ => calm_giveTarget k _ _)

theorem upd_reqCloseDeck (i d : Nat) (s : State) : Upd s (reqCloseDeck i d s).1 := by
  unfold reqCloseDeck
  split
  · exact .refl s
  · extract_lets g
    split
    · split
      · exact .refl s
      · exact .calm (.trans (.sailing s i { g with closedDecks := g.closedDecks ||| deckBit d } id) (calm_closeBags ..))
    · exact .refl s

theorem upd_reqReopenDeck (i d : Nat) (s : State) : Upd s (reqReopenDeck i d s).1 := by
  unfold reqReopenDeck
  split
  · exact .refl s
  · extract_lets g
    split
    · exact .calm (.sailing s i _ id)
    · exact .refl s

theorem upd_reqCloseSailing (i : Nat) (s : State) : Upd s (reqCloseSailing i s).1 := by
  unfold reqCloseSailing
  split
  · exact .refl s
  · extract_lets g
    split
    · exact .calm (.trans (.sailing s i { g with state := .closed, closedDecks := allDecks } id) (calm_closeBags ..))
    · exact .refl s

theorem upd_reqOpenSailing (i : Nat) (s : State) : Upd s (reqOpenSailing i s).1 := by
  unfold reqOpenSailing
  split
  · exact .refl s
  · extract_lets g
    split
    · exact .calm (.sailing s i _ id)
    · exact .refl s

theorem upd_reqSailing (i a d : Nat) (s : State) : Upd s (reqSailing i a d s).1 := by
  unfold reqSailing
  split
  · exact upd_reqCloseDeck ..
  · split
    · exact upd_reqReopenDeck ..
    · split
      · exact upd_reqCloseSailing ..
      · split
        · exact upd_reqOpenSailing ..
        · exact .refl s

theorem upd_reqLock (i : Nat) (s : State) : Upd s (reqLock i s).1 := by
  unfold reqLock
  split
  · exact .calm (.sailing s i _ id)
  · exact .refl s

theorem upd_abandonWalk (i : Nat) (s : State) : Upd s (abandonWalk i s) := by
  unfold abandonWalk
  split
  · exact .trans (.calm (.sailing s i { sailingAt s i with walk := none } id)) (.reply ..)
  · exact .refl s

theorem upd_sweepStep (s : State) : Upd s (sweepStep s) := by
  unfold sweepStep
  split
  · next k g p _ =>
    have h1 : ∀ b, (BankWf (sailingAt s g).active → BankWf b) →
        Calm s (setSailing g { sailingAt s g with active := b } s) :=
      fun b hb => .sailing s g _ fun h => ⟨hb h.1, h.2⟩
    exact .trans (.calm (h1 _ fun h => putCabin_wf p _ _ h)) (.restarting ..)
  · exact .refl s

theorem upd_completeRestart (s : State) : Upd s (completeRestart s) := by
  unfold completeRestart
  split
  · exact .trans (.restarting s none) (.reply ..)
  · exact .refl s

/-! ### LOAD -/

theorem writeBank_wf (t : LoadTable) (b : Bank) (e : Nat × List Byte) (h : BankWf b) : BankWf (writeBank t b e) := by
  unfold writeBank
  split
  · exact putCabin_wf _ _ _ h
  · exact ⟨h.1, tablePut_wf _ _ _ _ h.2⟩
  · exact h
  · exact h

theorem calm_writeManifest (p : LoadPart) (s : State) : Calm s (writeManifest p s) := by
  refine .sailing s p.sailing _ fun h => ⟨h.1, ?_⟩
  show BankWf (p.entries.foldl (writeBank p.table) (sailingAt s p.sailing).staging)
  have : ∀ (es : List (Nat × List Byte)) (b : Bank), BankWf b → BankWf (es.foldl (writeBank p.table) b) := by
    intro es
    induction es with
    | nil => exact fun b h => h
    | cons e es ih => exact fun b h => ih _ (writeBank_wf _ _ _ h)
  exact this _ _ h.2

theorem calm_reloadTimers (c : LoopCfg) (s : State) : Calm s (reloadTimers c s) := by
  unfold reloadTimers
  split
  · split
    · exact calm_gate _ s rfl
    · exact calm_gate _ s rfl
    · exact .refl s
  · exact .refl s

theorem upd_writeLoop (c : LoopCfg) (s : State) : Upd s (writeLoop c s) := by
  refine .trans (.tracker s (reloadTracker c) ?_ ?_ ?_) (.calm (calm_reloadTimers ..))
  · unfold reloadTracker; split <;> exact id
  · unfold reloadTracker; split <;> exact id
  · unfold reloadTracker; split
    · exact id
    · simp

theorem writeNodes_wf (own : Nat) (p : LoadPart) (t : Table (Option NodeEntry)) (h : TableWf none t) :
    TableWf none (writeNodes own p t) := by
  unfold writeNodes
  generalize p.entries = es
  induction es generalizing t with
  | nil => exact h
  | cons e es ih => exact ih _ (tablePut_wf _ _ _ _ h)

theorem profiles_wf (es : List (Nat × List Byte)) (t : Table (List Segment)) (h : TableWf [] t) :
    TableWf [] (es.foldl (fun t e => tablePut [] t e.1 (profileOf e.2)) t) := by
  induction es generalizing t with
  | nil => exact h
  | cons e es ih => exact ih _ (tablePut_wf _ _ _ _ h)

theorem calm_writePlayermap (p : LoadPart) (s : State) : Calm s (writePlayermap p s) :=
  calm_foldl _ _ s fun _ _ _ => .player ..

theorem upd_writeChutes (p : LoadPart) (s : State) (h : ∀ e ∈ p.entries, committed s e.1 = 0) :
    Upd s { s with chutes := writeChutes p s.chutes } := by
  unfold writeChutes
  generalize p.entries = es at h
  induction es generalizing s with
  | nil => exact .refl s
  | cons e es ih =>
    exact .trans (.newChute s e.1 (chuteOf e.2) (h e (by simp)) rfl)
      (ih (setChute e.1 (chuteOf e.2) s) fun x hx => h x (by simp [hx]))

/-- The fire queues stand as they were after a section is written. -/
theorem writePart_queues (s : State) (p : LoadPart) : (writePart s p).queues = s.queues := by
  have hset : ∀ (i : Nat) (g : Sailing) (s : State), (setSailing i g s).queues = s.queues := by
    intro i g s; unfold setSailing; split <;> rfl
  have hmap : ∀ (es : List (Nat × List Byte)) (s : State),
      (es.foldl (fun s e => setPlayer e.1
        { playerAt s e.1 with node := if u8 e.2 0 = 0 then none else some (u8 e.2 0), actuator := u8 e.2 1 } s) s).queues
        = s.queues := by
    intro es
    induction es with
    | nil => exact fun s => rfl
    | cons e es ih => exact fun s => (ih _).trans rfl
  unfold writePart
  split
  · exact hset ..
  · exact hset ..
  · exact hset ..
  · split
    · unfold writeLoop reloadTimers
      split
      · split <;> rfl
      · rfl
    · rfl
  · rfl
  · rfl
  · rfl
  · exact hmap ..

/-- A section that passed its checks is written by the part's updates. -/
theorem upd_writePart (s : State) (p : LoadPart) (h : p.table = .chute → ∀ e ∈ p.entries, committed s e.1 = 0) :
    Upd s (writePart s p) := by
  unfold writePart
  split
  · exact .calm (calm_writeManifest ..)
  · exact .calm (calm_writeManifest ..)
  · exact .calm (calm_writeManifest ..)
  · split
    · exact upd_writeLoop ..
    · exact .refl s
  · exact .nodes s _ (writeNodes_wf _ _ _)
  · next ht => exact upd_writeChutes p s (h ht)
  · exact .profiles s _ (profiles_wf _ _)
  · exact .calm (calm_writePlayermap ..)

theorem upd_writeParts (ps : List LoadPart) (s : State)
    (h : ∀ p ∈ ps, p.table = .chute → ∀ e ∈ p.entries, committed s e.1 = 0) : Upd s (ps.foldl writePart s) := by
  induction ps generalizing s with
  | nil => exact .refl s
  | cons p ps ih =>
    refine .trans (upd_writePart s p (h p (by simp))) (ih _ fun q hq ht e he => ?_)
    unfold committed queueAt
    rw [writePart_queues]
    exact h q (by simp [hq]) ht e he

theorem committed_of_firstFail {l : List (Bool × Status)} {b : Bool} {st : Status} (h : firstFail l = none)
    (hm : (b, st) ∈ l) : b = true := by
  induction l with
  | nil => simp at hm
  | cons x l ih =>
    obtain ⟨c, st'⟩ := x
    unfold firstFail at h
    split at h
    · next hc =>
      rcases List.mem_cons.mp hm with hm | hm
      · cases hm; exact hc
      · exact ih h hm
    · cases h

/-- A CHUTE section that passed its checks writes chutes whose committed count is 0 (R123). -/
theorem chuteFree_of_checkPart {ps : List LoadPart} {p : LoadPart} {s : State} (h : checkPart ps p s = none)
    (ht : p.table = .chute) : ∀ e ∈ p.entries, committed s e.1 = 0 := by
  intro e he
  unfold checkPart at h
  split at h
  · next hr =>
    unfold LoadPart.entries at he
    rw [hr] at he
    simp at he
  · rw [ht] at h
    unfold checkChute at h
    have hf := committed_of_firstFail (b := p.entries.all fun e => chuteFree s e.1) (st := .state) h (by simp)
    rw [List.all_eq_true] at hf
    have := hf e he
    unfold chuteFree at this
    simp only [Bool.and_eq_true, decide_eq_true_eq] at this
    exact this.2

theorem upd_reqLoad (args : List Byte) (s : State) : Upd s (reqLoad args s).1 := by
  unfold reqLoad
  split
  · exact .refl s
  · next ps _ =>
    split
    · exact .refl s
    · next hc =>
      have hw : Upd s (ps.foldl writePart s) := by
        refine upd_writeParts ps s fun p hp ht => ?_
        unfold checkLoad at hc
        split at hc
        · cases hc
        · next hn => exact chuteFree_of_checkPart (List.findSome?_eq_none_iff.mp hn p hp) ht
      refine .trans hw (.calm ?_)
      show Calm _ (afterLoad ps _)
      unfold afterLoad
      extract_lets s1
      have h1 : Calm (ps.foldl writePart s) s1 := by
        unfold s1
        split
        · exact .refl _
        · refine calm_roundsAt _ _ fun c hc => ?_
          unfold availableChutes at hc
          simp only [List.mem_filter, List.mem_range] at hc
          exact hc.1
      split
      · exact h1
      · exact .trans h1 (calm_grantAttempt s1)

/-! ### PIN, UNPIN, players, the sort hold, the snapshot, RESTART -/

theorem upd_reqPin (c k : Nat) (s : State) : Upd s (reqPin c k s).1 := by
  unfold reqPin
  split
  · exact .refl s
  · next hck =>
    split
    · next r hr =>
      split
      · extract_lets s1
        have h1 : Calm s s1 := .chute s c r _ hr rfl rfl (.inl rfl)
        show Upd s (if r.cls = some k then s1 else roundAt s1 c)
        split
        · exact .calm h1
        · exact .calm (.trans h1 (calm_roundAt s1 c (by omega)))
      · exact .refl s
    · exact .refl s

theorem unpinned_keeps (r : Chute) :
    (unpinned r).role = r.role ∧ (unpinned r).capacity = r.capacity ∧ (unpinned r).cage = r.cage := by
  unfold unpinned
  split <;> exact ⟨rfl, rfl, rfl⟩

theorem upd_reqUnpin (c : Nat) (s : State) : Upd s (reqUnpin c s).1 := by
  unfold reqUnpin
  split
  · exact .refl s
  · split
    · next r hr =>
      split
      · exact .calm (.chute s c r _ hr (unpinned_keeps r).1 (unpinned_keeps r).2.1 (.inl (by rw [(unpinned_keeps r).2.2])))
      · exact .refl s
    · exact .refl s

theorem calm_disarmPlayer (p : Nat) (s : State) : Calm s (disarmPlayer p s) := by
  unfold disarmPlayer
  split
  · exact calm_disarmAll ..
  · exact .refl s

theorem calm_switchMode (p : Nat) (m : PlayerMode) (s : State) : Calm s (switchMode p m s) := by
  refine calm_withRounds _ s ?_
  extract_lets s1
  have h1 : Calm s s1 := calm_changeMode ..
  split
  · exact .trans h1 (calm_disarmPlayer ..)
  · exact h1

theorem upd_reqMode (p : Nat) (m : PlayerMode) (s : State) : Upd s (reqMode p m s).1 := by
  unfold reqMode
  split
  · exact .refl s
  · show Upd s (if _ then s else switchMode p m s)
    split
    · exact .refl s
    · exact .calm (calm_switchMode ..)

theorem upd_reqDirect (p l : Nat) (s : State) : Upd s (reqDirect p l s).1 := by
  unfold reqDirect
  split
  · exact .refl s
  · have h1 : Calm s (setPlayer p { playerAt s p with level := l } s) := .player ..
    show Upd s (if _ then pushLevel p l 0 _ else switchMode p .direct _)
    split
    · exact .calm (.trans h1 (calm_pushLevel ..))
    · exact .calm (.trans h1 (calm_switchMode ..))

theorem upd_reqPlayer (p m l : Nat) (s : State) : Upd s (reqPlayer p m l s).1 := by
  unfold reqPlayer
  split
  · exact upd_reqMode ..
  · split
    · exact upd_reqMode ..
    · split
      · exact upd_reqDirect ..
      · exact .refl s

theorem calm_expireRamp (p : Nat) (s : State) : Calm s (expireRamp p s) := by
  unfold expireRamp
  split
  · exact calm_runTask ..
  · exact .refl s

theorem calm_expireTime (p : Nat) (s : State) : Calm s (expireTime p s) := by
  unfold expireTime
  split
  · exact calm_runTask ..
  · exact .refl s

theorem calm_endWindow (p : Nat) (s : State) : Calm s (endWindow p s) := by
  unfold endWindow
  split
  · split
    · exact calm_runTask ..
    · exact .refl s
  · exact .refl s

theorem calm_expireTrigger (p : Nat) (s : State) : Calm s (expireTrigger p s) := by
  unfold expireTrigger
  split
  · split
    · refine calm_withRounds _ s ?_
      exact .trans (calm_changeMode p .fault s) (.trans (.report ..) (calm_disarmPlayer ..))
    · exact .refl s
  · exact .refl s

theorem upd_reqSortHold (s : State) : Upd s (reqSortHold s).1 := by
  unfold reqSortHold
  show Upd s (if s.mgmt.sortHold then s else _)
  split
  · exact .refl s
  · exact upd_withRounds _ s (.trans (.sortHold s true) (.calm (calm_disarmAll ..)))

theorem upd_reqSortRelease (s : State) : Upd s (reqSortRelease s).1 := by
  unfold reqSortRelease
  show Upd s (if s.mgmt.sortHold then _ else s)
  split
  · exact .trans (upd_withRounds _ s (.sortHold s false)) (.calm (calm_grantAttempt _))
  · exact .refl s

theorem calm_restartChuteAt (s : State) (c : Nat) : Calm s (restartChuteAt s c) := by
  unfold restartChuteAt
  split
  · next r hr =>
    extract_lets s1
    have h1 : Calm s s1 := .chute s c r _ hr rfl rfl (.inr rfl)
    split
    · exact .trans h1 (calm_pushCagesig ..)
    · exact h1
  · exact .refl s

theorem upd_restartBlocks (s : State) : Upd s (restartBlocks s) := by
  unfold restartBlocks
  refine .trans (upd_restartTracker s) (.trans (.calm (calm_restartGate _)) (.trans (.noBags _) ?_))
  refine .trans (upd_abandonWalk 0 _) (.trans (upd_abandonWalk 1 _) ?_)
  refine .trans ?_ (.trans (.calm (calm_restartPlayers _)) (.noStrays _))
  exact .trans (.calm (calm_foldl _ _ _ fun t c _ => calm_restartChuteAt t c)) (.noQueues _)

theorem upd_reqRestart (k : Nat) (s : State) : Upd s (reqRestart k s).1 := by
  unfold reqRestart
  extract_lets s1
  have h1 : Upd s s1 := upd_restartBlocks s
  split
  · exact .trans h1 (.restarting ..)
  · exact h1

/-! ### Requests -/

theorem upd_serveQuery (q : Nat) (args : List Byte) (s : State) : Upd s (serveQuery q args s).1 := by
  have h : (serveQuery q args s).1 = s := by
    unfold serveQuery
    repeat' split
    all_goals rfl
  rw [h]
  exact .refl s

theorem upd_noArgs (args : List Byte) (f : State → State × Answer) (s : State) (h : Upd s (f s).1) :
    Upd s (noArgs args f s).1 := by
  unfold noArgs
  split
  · exact h
  · exact .refl s

theorem upd_ite (p : Prop) [Decidable p] (s : State) (a b : State × Answer) (ha : Upd s a.1) (hb : Upd s b.1) :
    Upd s (if p then a else b).1 := by
  split
  · exact ha
  · exact hb

theorem upd_serve (slot kind : Nat) (args : List Byte) (s : State) : Upd s (serve slot kind args s).1 := by
  unfold serve
  iterate 14
    refine upd_ite _ s _ _ ?_ ?_
    rotate_left
  any_goals split
  · exact .refl s
  · exact upd_reqLoad ..
  · exact upd_reqCommit ..
  · exact .refl s
  · exact upd_reqDiscard ..
  · exact .refl s
  · exact upd_reqErase ..
  · exact .refl s
  · exact upd_reqSailing ..
  · exact .refl s
  · exact upd_reqLock ..
  · exact .refl s
  · exact upd_reqPin ..
  · exact .refl s
  · exact upd_reqUnpin ..
  · exact .refl s
  · exact upd_reqPlayer ..
  · exact .refl s
  · exact upd_noArgs _ _ s (upd_reqSortHold s)
  · exact upd_noArgs _ _ s (upd_reqSortRelease s)
  · exact upd_serveQuery ..
  · exact .refl s
  · exact upd_noArgs _ _ s (.snapshot s)
  · exact upd_noArgs _ _ s (upd_reqRestart slot s)

theorem upd_takeReq (tag kind : Byte) (work : Nat → State → State × Answer) (s : State)
    (h : ∀ k t, Upd t (work k t).1) : Upd s (takeReq tag kind work s) := by
  have fin : ∀ (k : Nat) (r : State × Answer), Upd r.1 (finishRequest k r) := by
    intro k r
    unfold finishRequest
    split
    · exact .reply ..
    · exact .refl _
  unfold takeReq
  split
  · split
    · exact .transit ..
    · next k hk =>
      extract_lets s1
      have h1 : Upd s s1 := .claim s k tag kind hk
      refine .trans h1 (.trans ?_ (fin k _))
      split
      · exact .refl s1
      · exact h k s1
  · exact .refl s

theorem upd_consume (f : RawFrame) (s : State) : Upd s (consume f s) := by
  unfold consume
  split
  · split
    · exact .calm (.count ..)
    · split
      · exact .refl s
      · split
        · exact upd_takeReq _ _ _ s fun k t => upd_serve ..
        · exact .calm (.count ..)
  · exact upd_fieldFrame ..

theorem upd_receiveFrame (bytes : List Byte) (s : State) : Upd s (receiveFrame bytes s) := by
  unfold receiveFrame
  split
  · split
    · unfold decideFrame
      split
      · exact .refl s
      · split
        · exact upd_consume ..
        · split
          · exact .trans (.transit s bytes) (upd_consume ..)
          · exact .transit ..
    · exact .calm (.count ..)
  · exact .relay ..

theorem upd_finishSending (s : State) : Upd s (finishSending s) := by
  unfold finishSending
  split
  · exact .leave ..
  · exact .refl s

/-! ### Every command -/

/-- Every command's next state is reached by the part's named updates. -/
theorem exec_upd (c : Instr) (s t : State) (h : exec c s = .next t) : Upd s t := by
  have hq : ∀ (tag : Byte) (q : State → Status × List Byte), Upd s (takeReq tag 12 (queried q) s) :=
    fun tag q => upd_takeReq _ _ _ s fun _ t => .refl t
  cases c with
  | powerOnReset straps => cases h; exact .powerOn ..
  | resetnLow => cases h; exact .low s
  | frameReceive bytes => exact upd_event _ s t (upd_receiveFrame ..) h
  | track src seq delta => exact upd_event _ s t (upd_takeField ..) h
  | eye src idx edge stamp => exact upd_event _ s t (upd_takeField ..) h
  | scan src stamp codes => exact upd_event _ s t (upd_takeField ..) h
  | induct src idx => exact upd_event _ s t (upd_takeField ..) h
  | keyinCode src slot code => exact upd_event _ s t (upd_takeField ..) h
  | keyinReject src slot => exact upd_event _ s t (upd_takeField ..) h
  | hold src code => exact upd_event _ s t (upd_takeField ..) h
  | release src code => exact upd_event _ s t (upd_takeField ..) h
  | cagePresent src id => exact upd_event _ s t (upd_takeField ..) h
  | cageFullOn src => exact upd_event _ s t (upd_takeField ..) h
  | cageFullOff src => exact upd_event _ s t (upd_takeField ..) h
  | cageRemoved src => exact upd_event _ s t (upd_takeField ..) h
  | driveReady src => exact upd_event _ s t (upd_takeField ..) h
  | driveFault src => exact upd_event _ s t (upd_takeField ..) h
  | reqBadKind tag kind args => exact upd_event _ s t (upd_takeReq _ _ _ s fun k t => upd_serve ..) h
  | load tag args => exact upd_event _ s t (upd_takeReq _ _ _ s fun k t => upd_reqLoad ..) h
  | commit tag g x => exact upd_event _ s t (upd_takeReq _ _ _ s fun k t => upd_reqCommit ..) h
  | discard tag g => exact upd_event _ s t (upd_takeReq _ _ _ s fun k t => upd_reqDiscard ..) h
  | erase tag g => exact upd_event _ s t (upd_takeReq _ _ _ s fun k t => upd_reqErase ..) h
  | closeDeck tag g d => exact upd_event _ s t (upd_takeReq _ _ _ s fun k t => upd_reqCloseDeck ..) h
  | reopenDeck tag g d => exact upd_event _ s t (upd_takeReq _ _ _ s fun k t => upd_reqReopenDeck ..) h
  | closeSailing tag g d => exact upd_event _ s t (upd_takeReq _ _ _ s fun k t => upd_reqCloseSailing ..) h
  | openSailing tag g d => exact upd_event _ s t (upd_takeReq _ _ _ s fun k t => upd_reqOpenSailing ..) h
  | lock tag g => exact upd_event _ s t (upd_takeReq _ _ _ s fun k t => upd_reqLock ..) h
  | pin tag c k => exact upd_event _ s t (upd_takeReq _ _ _ s fun k t => upd_reqPin ..) h
  | unpin tag c => exact upd_event _ s t (upd_takeReq _ _ _ s fun k t => upd_reqUnpin ..) h
  | playerOff tag p l => exact upd_event _ s t (upd_takeReq _ _ _ s fun k t => upd_reqMode ..) h
  | playerAuto tag p l => exact upd_event _ s t (upd_takeReq _ _ _ s fun k t => upd_reqMode ..) h
  | playerDirect tag p l => exact upd_event _ s t (upd_takeReq _ _ _ s fun k t => upd_reqDirect ..) h
  | sortHold tag => exact upd_event _ s t (upd_takeReq _ _ _ s fun k t => upd_reqSortHold t) h
  | sortRelease tag => exact upd_event _ s t (upd_takeReq _ _ _ s fun k t => upd_reqSortRelease t) h
  | queryCabin tag g b x => exact upd_event _ s t (hq ..) h
  | queryBag tag i => exact upd_event _ s t (hq ..) h
  | queryChute tag c => exact upd_event _ s t (hq ..) h
  | queryCage tag a b x => exact upd_event _ s t (hq ..) h
  | queryStray tag b => exact upd_event _ s t (hq ..) h
  | queryHold tag b => exact upd_event _ s t (hq ..) h
  | querySailing tag g => exact upd_event _ s t (hq ..) h
  | snapshot tag => exact upd_event _ s t (upd_takeReq _ _ _ s fun k t => .snapshot t) h
  | restart tag => exact upd_event _ s t (upd_takeReq _ _ _ s fun k t => upd_reqRestart k t) h
  | transmitComplete => exact upd_event _ s t (upd_finishSending s) h
  | silenceTimerExpiry => exact upd_event _ s t (upd_expireSilence s) h
  | runIdleTimerExpiry => exact upd_event _ s t (.calm (calm_expireRunIdle s)) h
  | slowIdleTimerExpiry => exact upd_event _ s t (.calm (calm_expireSlowIdle s)) h
  | inductTimeout =>
    refine upd_event _ s t (.calm ?_) h
    show Calm s (if _ then _ else s)
    split
    · exact calm_inductTimeoutNow s
    · exact .refl s
  | entryOversize =>
    refine upd_event _ s t (.calm ?_) h
    show Calm s (if _ then _ else s)
    split
    · exact calm_entryOversizeNow s
    · exact .refl s
  | loopEyeLengthReached k =>
    refine upd_event _ s t (.calm ?_) h
    show Calm s (if _ then _ else s)
    split
    · exact calm_setMeasure ..
    · exact .refl s
  | missedDivert i =>
    refine upd_event _ s t (.calm ?_) h
    show Calm s (if _ then _ else s)
    split
    · exact calm_missDivert ..
    · exact .refl s
  | windowHoldEnd p => exact upd_event _ s t (.calm (calm_endWindow ..)) h
  | rampTimerExpiry p => exact upd_event _ s t (.calm (calm_expireRamp ..)) h
  | timeHoldExpiry p => exact upd_event _ s t (.calm (calm_expireTime ..)) h
  | triggerTimeout p => exact upd_event _ s t (.calm (calm_expireTrigger ..)) h
  | commitStep i => exact upd_event _ s t (.calm (calm_walkStep ..)) h
  | commitSwap i => exact upd_event _ s t (upd_walkSwap ..) h
  | restartSweepStep => exact upd_event _ s t (upd_sweepStep s) h
  | restartComplete => exact upd_event _ s t (upd_completeRestart s) h

/-- Every step's next state is reached by the part's named updates. -/
theorem step_upd (s t : State) (h : step s = .next t) : Upd s t := by
  unfold step at h
  split at h
  · cases h; exact .refl s
  · next c cs _ => exact .trans (.queue s cs) (exec_upd c _ t h)

end Sys2Proof.Machine
end

