-- ==== Sys2Proof/Laws/Invariants.lean ====
section
/-! SUPPORT. What every named update of the part keeps: the canonical form of the tables, the bounds, and the reservations. -/

namespace Sys2Proof.Machine

theorem Bounded.pushTransit {s : State} (b : Bounded s) (f : List Byte) : Bounded (pushTransit f s) := by
  unfold Machine.pushTransit lineTransit
  split
  · exact { b with transit := by simp only [List.length_append, List.length_singleton]; omega }
  · exact b.bump _

theorem Bounded.relay {s : State} (b : Bounded s) (f : List Byte) :
    Bounded { s with line := lineTransit f s.line } := by
  unfold lineTransit
  split
  · exact { b with transit := by simp only [List.length_append, List.length_singleton]; omega }
  · exact { b with }

theorem Bounded.buildReply {s : State} (b : Bounded s) (i : Nat) (st : Status) (bs : List Byte) :
    Bounded (buildReply i st bs s) := by
  unfold Machine.buildReply
  split
  · exact { b with }
  · exact b

theorem Bounded.leave {s : State} (b : Bounded s) (x : TxSource) : Bounded (leaveSource x s) := by
  have ht : ∀ (α : Type) (l : List α) (n : Nat), l.length ≤ n → l.tail.length ≤ n := by
    intro α l n h
    rw [List.length_tail]
    omega
  cases x with
  | control => exact { b with control := ht _ _ _ b.control }
  | transit => exact { b with transit := ht _ _ _ b.transit }
  | reply i => exact { b with }
  | report => exact { b with reports := ht _ _ _ b.reports }

theorem zeroCounters_bounded : CountersBounded zeroCounters := by
  unfold CountersBounded
  decide

/-- Right after a reset, at any address, the tables are in canonical form. -/
theorem powerOn_tablesWf (a : Nat) : TablesWf (powerOn a) :=
  ⟨nil_wf _, nil_wf _, nil_wf _, nil_wf _, nil_wf _, ⟨emptyBank_wf, emptyBank_wf⟩, ⟨emptyBank_wf, emptyBank_wf⟩,
    nil_wf _, nil_wf _, nil_wf _, nil_wf _, nil_wf _⟩

theorem powerOn_bounded (a : Nat) : Bounded (powerOn a) where
  transit := Nat.zero_le _
  control := Nat.zero_le _
  runCount := Nat.zero_le _
  reports := Nat.zero_le _
  counters := zeroCounters_bounded
  holds := Nat.zero_le _
  distinct := List.nodup_nil
  wellFormed _ h := absurd h List.not_mem_nil
  closedCages := Nat.zero_le _
  debt := Nat.zero_le _
  speed := Nat.zero_le _
  history := Nat.zero_le _

/-- With every fire queue and the stray list empty, no reservation is exceeded, where each cage's list is within its
chute's capacity. -/
theorem Reserved.of_noQueues {s : State} (hq : s.queues = [])
    (hc : ∀ c r, chuteAt s c = some r → r.role = .sort → r.cage.loaded.length ≤ r.capacity)
    (hs : s.strays.entries.length ≤ 64) : Reserved s := by
  have h0 : ∀ c, committed s c = 0 := by
    intro c
    unfold committed queueAt
    rw [hq]
    rfl
  refine ⟨fun c => by rw [h0]; omega, fun c _ => h0 c, fun c r hr h => by rw [h0]; exact hc c r hr h, ?_⟩
  have : strayCommitted s = 0 := by
    rw [strayCommitted_share]
    refine Nat.le_zero.mp (Nat.le_trans (sum_map_le (g := fun _ => 0) fun c _ => ?_) (by decide))
    unfold strayShare
    split
    · split
      · exact Nat.le_of_eq (h0 c)
      · exact Nat.le_refl _
    · exact Nat.le_refl _
  omega

theorem powerOn_reserved (a : Nat) : Reserved (powerOn a) :=
  .of_noQueues rfl (fun c r h => by cases h) (Nat.zero_le _)

/-- Every named update keeps the canonical form of the tables. -/
theorem Upd.tablesWf {s t : State} (h : Upd s t) (w : TablesWf s) : TablesWf t := by
  induction h with
  | calm h => exact h.tablesWf w
  | trans _ _ h g => exact g (h w)
  | transit s f =>
    unfold pushTransit lineTransit
    split
    · exact { w with }
    · exact { w with }
  | relay s f =>
    unfold lineTransit
    split
    · exact { w with }
    · exact { w with }
  | claim s i tag kind _ => exact { w with slots := tablePut_wf _ _ _ _ w.slots }
  | reply s i st bs =>
    unfold buildReply
    split
    · exact { w with slots := tablePut_wf _ _ _ _ w.slots }
    · exact w
  | leave s x =>
    cases x with
    | reply i => exact { w with slots := tablePut_wf _ _ _ _ w.slots }
    | _ => exact { w with }
  | nodes s t h => exact { w with nodes := h w.nodes }
  | profiles s t h => exact { w with profiles := h w.profiles }
  | newChute s c r h hr => exact { w with chutes := tablePut_wf _ _ _ _ w.chutes }
  | noQueues s => exact { w with queues := nil_wf _ }
  | noBags s => exact { w with bags := nil_wf _, loopMeas := nil_wf _ }
  | powerOn s a => exact { powerOn_tablesWf a with }
  | low s => exact { w with slots := nil_wf _ }
  | _ => exact { w with }

/-- Every named update keeps the bounds. -/
theorem Upd.bounded {s t : State} (h : Upd s t) (b : Bounded s) : Bounded t := by
  induction h with
  | calm h => exact h.bounded b
  | trans _ _ h g => exact g (h b)
  | transit s f => exact b.pushTransit f
  | relay s f => exact b.relay f
  | reply s i st bs => exact b.buildReply i st bs
  | send s x y n h => exact { b with runCount := h b.runCount }
  | leave s x => exact b.leave x
  | tracker s f hd hv hh => exact { b with debt := hd b.debt, speed := hv b.speed, history := hh b.history }
  | holdJoin s c hw hn hl =>
    refine { b with holds := ?_, distinct := ?_, wellFormed := ?_ }
    · simp only [List.length_append, List.length_singleton]; omega
    · refine List.nodup_append.mpr ⟨b.distinct, List.nodup_singleton c, fun x hx y hy hxy => ?_⟩
      rw [List.mem_singleton] at hy
      exact hn (by rw [← hy, ← hxy]; exact hx)
    · intro x hx
      rcases List.mem_append.mp hx with h | h
      · exact b.wellFormed x h
      · rw [List.mem_singleton] at h
        rw [h]
        exact hw
  | holdLeave s p =>
    exact { b with holds := Nat.le_trans (List.length_filter_le ..) b.holds
                   distinct := b.distinct.filter _
                   wellFormed := fun x hx => b.wellFormed x (List.mem_filter.mp hx).1 }
  | snapshot s => exact { b with counters := zeroCounters_bounded }
  | noQueues s => exact { b with closedCages := Nat.zero_le _ }
  | powerOn s a => exact { powerOn_bounded a with }
  | low s => exact { b with reports := Nat.zero_le _ }
  | _ => exact { b with }

/-- Every named update keeps the reservations, over tables in canonical form. -/
theorem Upd.reserved {s t : State} (h : Upd s t) (w : TablesWf s) (v : Reserved s) : Reserved t := by
  induction h with
  | calm h => exact h.reserved w v
  | trans h _ ih ig => exact ig (h.tablesWf w) (ih w v)
  | transit s f =>
    unfold pushTransit
    split
    · exact v.of_eq rfl rfl rfl
    · exact v.of_eq rfl rfl rfl
  | reply s i st bs =>
    unfold buildReply
    split
    · exact v.of_eq rfl rfl rfl
    · exact v
  | leave s x =>
    cases x with
    | _ => exact v.of_eq rfl rfl rfl
  | newChute s c r h hr =>
    have hch := fun k => chuteAt_setChute s w.chutes.1 c k r
    refine ⟨v.three, v.chutes, fun k x hx hs => ?_, ?_⟩
    · rw [hch] at hx
      split at hx
      · next hk =>
        subst hk
        cases hx
        show r.cage.loaded.length + committed s k ≤ r.capacity
        rw [h, hr]
        exact Nat.zero_le _
      · exact v.cages k x hx hs
    · have : strayCommitted (setChute c r s) ≤ strayCommitted s := by
        rw [strayCommitted_share, strayCommitted_share]
        refine sum_map_le fun k _ => ?_
        unfold strayShare
        rw [hch]
        by_cases hk : k = c
        · subst hk
          simp only [if_pos]
          have h0 : committed (setChute k r s) k = 0 := h
          rw [h0]
          split <;> exact Nat.zero_le _
        · rw [if_neg hk]
          exact Nat.le_refl _
      have := v.strays
      show s.strays.entries.length + _ ≤ 64
      omega
  | noQueues s =>
    refine v.of_le (fun c => Nat.zero_le _) (fun c x hx => chutes_self s c x hx) (Nat.le_refl _)
  | noStrays s => exact v.of_le (fun _ => Nat.le_refl _) (fun c x hx => chutes_self s c x hx) (Nat.zero_le _)
  | powerOn s a => exact (powerOn_reserved a).of_eq rfl rfl rfl
  | _ => exact v.of_eq rfl rfl rfl

/-- The slot claimed is one of the four, and FREE. -/
theorem freeSlot_some {l : Line} {i : Nat} (h : freeSlot l = some i) :
    i < 4 ∧ tableGet Slot.free l.slots i = .free := by
  unfold freeSlot at h
  have h2 := List.find?_some h
  exact ⟨List.mem_range.mp (List.mem_of_find?_eq_some h), of_decide_eq_true h2⟩

/-- The slots agree where the slots and their order stand as they were. -/
theorem SlotsAgree.of_eq {s t : State} (a : SlotsAgree s) (h1 : t.line.slots = s.line.slots)
    (h2 : t.line.readyOrder = s.line.readyOrder) : SlotsAgree t :=
  ⟨by rw [h2]; exact a.once, by rw [h1, h2]; exact a.ready, by rw [h1]; exact a.four⟩

theorem powerOn_slotsAgree (a : Nat) : SlotsAgree (powerOn a) :=
  ⟨List.nodup_nil, fun _ => ⟨fun h => absurd h List.not_mem_nil, fun ⟨_, h⟩ => nomatch h⟩, fun _ _ => rfl⟩

/-- Every named update keeps the agreement of the reply slots with their order. -/
theorem Upd.slotsAgree {s t : State} (h : Upd s t) (w : TablesWf s) (a : SlotsAgree s) : SlotsAgree t := by
  induction h with
  | calm h => exact a.of_eq h.sameCore.slots h.sameCore.readyOrder
  | trans h _ ih ig => exact ig (h.tablesWf w) (ih w a)
  | transit s f =>
    unfold pushTransit lineTransit
    split <;> exact a.of_eq rfl rfl
  | relay s f =>
    unfold lineTransit
    split <;> exact a.of_eq rfl rfl
  | claim s i tag kind hf =>
    obtain ⟨h4, hfree⟩ := freeSlot_some hf
    have hg := fun j => tableGet_tablePut Slot.free s.line.slots i j (Slot.executing tag kind) w.slots.1
    refine ⟨a.once, fun j => ?_, fun j hj => ?_⟩
    · show j ∈ s.line.readyOrder ↔ ∃ r, tableGet Slot.free (tablePut .free s.line.slots i (.executing tag kind)) j = .ready r
      rw [hg, a.ready j]
      split
      · next hij => subst hij; rw [hfree]; simp
      · exact Iff.rfl
    · show tableGet Slot.free (tablePut .free s.line.slots i (.executing tag kind)) j = .free
      rw [hg, if_neg (by omega)]
      exact a.four j hj
  | reply s i st bs =>
    unfold buildReply
    split
    · next tag kind he =>
      have hg := fun j r => tableGet_tablePut Slot.free s.line.slots i j (Slot.ready r) w.slots.1
      have hi : i ∉ s.line.readyOrder := fun h => by
        obtain ⟨r, hr⟩ := (a.ready i).mp h
        rw [he] at hr
        cases hr
      have h4 : i < 4 := by
        rcases Nat.lt_or_ge i 4 with h | h
        · exact h
        · have := a.four i h
          rw [he] at this
          cases this
      refine ⟨List.nodup_append.mpr ⟨a.once, List.nodup_singleton i, fun x hx y hy hxy => ?_⟩, fun j => ?_, fun j hj => ?_⟩
      · rw [List.mem_singleton] at hy
        exact hi (by rw [← hy, ← hxy]; exact hx)
      · rw [List.mem_append, List.mem_singleton]
        simp only [hg]
        split
        · next hij => simp [hij]
        · next hij => rw [← a.ready j]; simp [hij]
      · simp only [hg]
        rw [if_neg (by omega)]
        exact a.four j hj
    · exact a
  | leave s x =>
    cases x with
    | reply i =>
      have hg := fun j => tableGet_tablePut Slot.free s.line.slots i j Slot.free w.slots.1
      refine ⟨a.once.filter _, fun j => ?_, fun j hj => ?_⟩
      · show j ∈ s.line.readyOrder.filter _ ↔ ∃ r, tableGet Slot.free (tablePut .free s.line.slots i .free) j = .ready r
        rw [hg, List.mem_filter, a.ready j]
        split
        · next hij => simp [hij]
        · next hij => simp [hij]
      · show tableGet Slot.free (tablePut .free s.line.slots i .free) j = .free
        rw [hg]
        split
        · rfl
        · exact a.four j hj
    | _ => exact a.of_eq rfl rfl
  | powerOn s x => exact (powerOn_slotsAgree x).of_eq rfl rfl
  | low s => exact ⟨List.nodup_nil, fun _ => ⟨fun h => absurd h List.not_mem_nil, fun ⟨_, h⟩ => nomatch h⟩, fun _ _ => rfl⟩
  | _ => exact a.of_eq rfl rfl

end Sys2Proof.Machine
end

