-- ==== Sys2Proof/Tests/Slice0.lean ====
section
/-! SUPPORT. Tests: the well-formedness checks refuse ill-formed commands, worked examples of the manual, and for every
statement about a command a concrete state and operands that meet its hypotheses. -/

namespace Sys2Proof.Tests

open Sys2Proof Sys2Proof.Machine

/-! ### The well-formedness checks -/

theorem test_wf_refuses_source_0 : (Instr.track 0 1 4).wf = false := by decide
theorem test_wf_refuses_source_127 : (Instr.driveReady 127).wf = false := by decide
theorem test_wf_refuses_eye_index_4 : (Instr.eye 21 4 .block 9).wf = false := by decide
theorem test_wf_refuses_station_index_4 : (Instr.induct 23 4).wf = false := by decide
theorem test_wf_refuses_five_scan_codes : (Instr.scan 22 9 [1, 2, 3, 4, 5]).wf = false := by decide
theorem test_wf_refuses_defined_kind : (Instr.reqBadKind 1 14 []).wf = false := by decide
theorem test_wf_refuses_defined_query_kind : (Instr.reqBadKind 1 12 [7]).wf = false := by decide
theorem test_wf_refuses_long_bad_request : (Instr.reqBadKind 1 99 (List.replicate 59 0)).wf = false := by decide
theorem test_wf_refuses_long_load : (Instr.load 1 (List.replicate 59 0)).wf = false := by decide
theorem test_wf_refuses_loop_eye_0 : (Instr.loopEyeLengthReached 0).wf = false := by decide
theorem test_wf_refuses_loop_eye_8 : (Instr.loopEyeLengthReached 8).wf = false := by decide
theorem test_wf_refuses_bag_512 : (Instr.missedDivert 512).wf = false := by decide
theorem test_wf_refuses_player_40 :
    (Instr.windowHoldEnd 40).wf = false ∧ (Instr.rampTimerExpiry 40).wf = false ∧
    (Instr.timeHoldExpiry 40).wf = false ∧ (Instr.triggerTimeout 40).wf = false := by decide
theorem test_wf_refuses_sailing_2 : (Instr.commitStep 2).wf = false ∧ (Instr.commitSwap 2).wf = false := by decide
theorem test_wf_refuses_every_field_source_0 :
    ([.eye 0 1 .block 9, .scan 0 9 [], .induct 0 1, .keyinCode 0 1 2, .keyinReject 0 1, .hold 0 1, .release 0 1,
      .cagePresent 0 1, .cageFullOn 0, .cageFullOff 0, .cageRemoved 0, .driveReady 0, .driveFault 0] : List Instr).all
      (fun c => !c.wf) = true := by decide
theorem test_wf_accepts_bounds :
    ([.eye 126 3 .clear 255, .scan 1 0 [1, 2, 3, 4], .reqBadKind 1 15 [], .reqBadKind 1 12 [8], .loopEyeLengthReached 7,
      .missedDivert 511, .windowHoldEnd 39, .commitStep 1] : List Instr).all Instr.wf = true := by decide

/-! ### Decoding: no row of the table gives bits -/

theorem test_decode_no_word : decodeTableWord 8 0x10 = none ∧ decodeTableWord 0 0 = none := by decide

/-! ### A part in use -/

/-- A loop configuration: L = 40000, entry eye at 100, loop eyes 1 and 2 at 10000 and 20000, reader 0 at 600. -/
def cfg : LoopCfg :=
  { len := 40000, entryPos := 100, eyes := [some 10000, some 20000, none, none, none, none, none],
    reader0 := some 600, reader1 := none, eyeTol := 60, wideTol := 400, recircLimit := 2, loopLimit := 480,
    gapBefore := 300, gapAfter := 200, maxBag := 1200, inductTimeout := 2000, runIdle := 30, slowIdle := 300, vRun := 50 }

/-- Field nodes 20 to 26: encoder, eyes, scanner, stations, screening, cage of chute 4, drive. -/
def nodes : Table (Option NodeEntry) :=
  [(0, some { addr := 20, role := .encoder }),
   (1, some { addr := 21, role := .eye [some .entry, some (.loop 1), some (.loop 3), some (.chute 4)] }),
   (2, some { addr := 22, role := .scanner 0 }),
   (3, some { addr := 23, role := .station [some ⟨0, .normal⟩, none, some ⟨3, .encode⟩, none] }),
   (4, some { addr := 24, role := .screening }),
   (5, some { addr := 25, role := .cage 4 }),
   (6, some { addr := 26, role := .drive }),
   (7, some { addr := 27, role := .scanner 1 }),
   (8, some { addr := 28, role := .station [some ⟨1, .normal⟩, none, none, none] })]

/-- A tracker in TRACKING that expects sequence 10. -/
def tracker : Tracker :=
  { cfg := some cfg, pos := 108, debt := 0, speed := 61, expected := some 10,
    history := [HistEntry.mk 8 104 4, HistEntry.mk 9 108 4], state := .tracking, clean := 0, silence := true }

/-- The part with its Node Table and loop configuration loaded, TRACKING, the loop in RUN and the drive READY. -/
def base : State :=
  { State.reset with nodes := nodes, tracker := tracker, gate := { resetGate with speed := .run, drive := .ready } }

/-- A bag on the loop. -/
def bag (st : BagState) (e : Nat) : Bag :=
  { state := st, station := some 0, edge := some e, len := some 500, recirc := 0, expEye := some ⟨1, .this⟩, misses := 0,
    uncertain := false, oversize := false, lastScan := [], owned := none, target := none, divert := none }

/-- A SORT chute PINNED to class 4, its cage node 25. -/
def chute (g : Cage) : Chute :=
  { role := .sort, mode := .pinned, cls := some 4, pos := 12000, diverter := 7, takeaway := none, profile := 2,
    leadTime := 145, margin := 40, armDist := 500, confirmDist := 900, capacity := 3, cageNode := 25, cage := g }

/-- An OPEN cage. -/
def openCage1 : Cage := { absentCage with state := .opened, id := 301 }

/-- The part with the sort hold set. -/
def held (s : State) : State := { s with mgmt := { s.mgmt with sortHold := true } }

/-- The part with chute 4 loaded. -/
def withChute (r : Chute) (s : State) : State := { s with chutes := [(4, some r)] }

/-- The code of cabin 10234, serial 2, of sailing 0x41 (R17's example). -/
def code1 : TagCode := 0x4127FA29

/-- Cabin 10234 on deck 10, zone 3, with two bags expected. -/
def cabin1 : Cabin :=
  { number := 10234, deck := 10, zone := 3, expected := 2, override := none, seen := 0, loaded := 0, done := false }

/-- The part with sailing 0 OPEN over one cabin of class 4. -/
def sailed (x : Cabin) (s : State) : State :=
  { s with sailing0 := { emptySailing with
      state := .opened, code := some 0x41,
      active := { code := 0x41, count := 1, recs := [(0, x)], map := [(74, some 4)] } } }

/-- Code 1 owned in sailing 0. -/
def owned1 : Owned := { code := code1, sailing := 0, deck := 10 }

/-- A field frame is attributed when its source's entry has the role. -/
theorem attributed (s : State) (src : Byte) (e : NodeEntry)
    (h : s.resetLow = false ∧ onLine s = true ∧ src.toNat ≠ 0 ∧ src.toNat ≠ s.line.nodeAddr ∧ s.mgmt.restart = none ∧
      entryAt s src.toNat = some e) : Attributed s src e.role :=
  ⟨⟨h.1, h.2.1⟩, h.2.2.1, h.2.2.2.1, h.2.2.2.2.1, e, h.2.2.2.2.2, rfl⟩

/-- A request is taken into slot 0 of a part that runs with all slots FREE. -/
theorem takes (s : State)
    (h : s.resetLow = false ∧ onLine s = true ∧ freeSlot s.line = some 0 ∧ s.mgmt.restart = none) : Takes s 0 :=
  ⟨⟨h.1, h.2.1⟩, h.2.2.1, h.2.2.2⟩

/-- The stamp 9 of the tracker stands once, with no advance since. -/
theorem stamped (s : State) (h : s.tracker.history = [HistEntry.mk 8 104 4, HistEntry.mk 9 108 4]) : Stamped s 9 0 := by
  refine ⟨[HistEntry.mk 8 104 4], HistEntry.mk 9 108 4, [], h, rfl, by simp, rfl⟩

/-- The tables of a state are in canonical form when each of them is. -/
theorem tables (s : State)
    (h : TableWf Slot.free s.line.slots ∧ TableWf none s.nodes ∧ TableWf none s.gate.slots ∧ TableWf none s.bags ∧
      TableWf none s.loopMeas ∧ (∀ g ∈ [s.sailing0, s.sailing1], ∀ b ∈ [g.active, g.staging],
        TableWf blankCabin b.recs ∧ TableWf none b.map) ∧ TableWf none s.chutes ∧ TableWf [] s.queues ∧
      TableWf [] s.players.profiles ∧ TableWf resetPlayer s.players.players ∧ TableWf none s.players.lines) :
    TablesWf s := by
  obtain ⟨h1, h2, h3, h4, h5, h6, h7, h8, h9, h10, h11⟩ := h
  have a := h6 s.sailing0 (by simp)
  have b := h6 s.sailing1 (by simp)
  exact ⟨h1, h2, h3, h4, h5, ⟨a _ (by simp), a _ (by simp)⟩, ⟨b _ (by simp), b _ (by simp)⟩, h7, h8, h9, h10, h11⟩

/-! ### Witnesses: a concrete state and operands for the hypotheses of each statement -/

theorem base_encoder : Attributed base 20 .encoder := attributed base 20 ⟨20, .encoder⟩ (by decide)
theorem base_takes : Takes base 0 := takes base (by decide)
theorem base_running : Running base := ⟨rfl, by decide⟩

theorem witness_StepRunsFrontCommand :
    ({ base with pending := [.snapshot 1, .lock 2 0] } : State).pending = .snapshot 1 :: [.lock 2 0] ∧
    base.pending = [] := by decide

theorem witness_ResetCommandsSetTheirValues :
    ({ base with resetLow := true } : State).resetLow = true ∧ Instr.transmitComplete ≠ .resetnLow ∧
    ∀ a, Instr.transmitComplete ≠ .powerOnReset a := ⟨rfl, by decide, by intro a h; cases h⟩

theorem witness_ResetMeetsInvariants :
    (State.reset = State.reset ∨ ∃ a, State.reset = powerOn a) ∧ ∃ a, powerOn 127 = powerOn a := ⟨.inl rfl, 127, rfl⟩

theorem witness_CodesFramesAndPayloadsReadBack :
    (let f : RawFrame := { dest := 9, src := 255, kind := 0x10, payload := List.replicate 60 0xA5 }
     f.dest < 256 ∧ f.src < 256 ∧ f.kind < 256 ∧ f.payload.length ≤ 60) ∧
    parseFrame [9, 20, 0x17, 1, 0, 0x9D, 0xE4] = some { dest := 9, src := 20, kind := 0x17, payload := [0] } ∧
    parseField .track [10, 0x80, 0x00] = some (.track 10 (-32768)) := by decide +kernel

/-- A DRIVE frame of node 26 addressed to the part, and one of its addresses and kinds changed. -/
def drive1 (dest src kind : Nat) (p : List Byte) : RawFrame := { dest := dest, src := src, kind := kind, payload := p }

theorem witness_ReceivedFrameActsAsCommand :
    (Instr.eye 21 3 .clear 9).wf = true ∧
    commandFrame base.line.nodeAddr (.eye 21 3 .clear 9) = some (drive1 9 21 0x11 [3, 1, 9]) ∧
    (Instr.load 7 []).wf = true ∧ commandFrame base.line.nodeAddr (.load 7 []) = some (drive1 9 0 0x30 [7, 1]) ∧
    onLine base = true := by decide +kernel

theorem witness_BadFrameCounted :
    ([9, 26, 0x17, 0, 0] : List Byte).length < 6 ∧
    60 < (((9 : Byte) :: 26 :: 0x17 :: 61 :: List.replicate 63 0).getD 3 0).toNat ∧
    ([9, 26, 0x17, 1, 0, 0] : List Byte).length ≠ 6 + (([9, 26, 0x17, 1, 0, 0] : List Byte).getD 3 0).toNat ∧
    be16 (crc16 (([9, 26, 0x17, 0, 0, 0] : List Byte).take 4)).toNat ≠ ([9, 26, 0x17, 0, 0, 0] : List Byte).drop 4 := by
  decide +kernel

/-- A frame that passes the check, and a test that its fields meet. -/
abbrev frameMeets (f : RawFrame) (p : RawFrame → Prop) : Prop := parseFrame (frameBytes f) = some f ∧ p f

theorem witness_ReceiveDecision :
    frameMeets (drive1 9 9 0x17 [0]) (fun f => f.src = base.line.nodeAddr) ∧
    frameMeets (drive1 0 26 0x17 [0]) (fun f => f.src ≠ base.line.nodeAddr ∧ f.dest ≠ base.line.nodeAddr ∧ f.dest ≠ 127) ∧
    frameMeets (drive1 127 0 0x30 [1, 13]) (fun f => f.src = 0 ∧ f.kind = 0x30 ∧ f.dest = 127) ∧
    frameMeets (drive1 127 26 0x17 [1]) (fun f => f.src ≠ base.line.nodeAddr ∧ f.src ≠ 0 ∧ f.dest = 127) ∧
    frameMeets (drive1 9 0 0x31 []) (fun f => f.src = 0 ∧ f.kind ≠ 0x30 ∧ f.dest = base.line.nodeAddr) ∧
    frameMeets (drive1 127 0 0x17 [0]) (fun f => f.src = 0 ∧ f.kind ≠ 0x30 ∧ f.dest = 127) ∧
    frameMeets (drive1 9 0 0x30 [1]) (fun f =>
      f.src = 0 ∧ f.kind = 0x30 ∧ f.dest = base.line.nodeAddr ∧ f.payload.length < 2) ∧
    frameMeets (drive1 9 26 0x30 [1, 13]) (fun f =>
      f.src ≠ 0 ∧ f.src ≠ base.line.nodeAddr ∧ f.kind = 0x30 ∧ f.dest = base.line.nodeAddr ∧ base.mgmt.restart = none) := by
  decide +kernel

theorem witness_AttributionTests :
    frameMeets (drive1 9 99 0x17 [0]) (fun f => f.src ≠ 0 ∧ f.src ≠ base.line.nodeAddr ∧ entryAt base f.src = none) ∧
    frameMeets (drive1 9 26 0x10 [1, 0, 4]) (fun f =>
      entryAt base f.src = some ⟨26, .drive⟩ ∧ f.kind ∉ roleCodes .drive) ∧
    frameMeets (drive1 9 26 0x17 [2]) (fun f =>
      fieldKindCode .drive = f.kind ∧ f.kind ∈ roleCodes .drive ∧ parseField .drive f.payload = none) ∧
    frameMeets (drive1 9 21 0x11 [4, 0, 9]) (fun f =>
      entryAt base f.src = some ⟨21, .eye [some .entry, some (.loop 1), some (.loop 3), some (.chute 4)]⟩ ∧
      parseField .eye f.payload = some (.eye 4 .block 9)) ∧
    frameMeets (drive1 9 28 0x13 [1]) (fun f =>
      entryAt base f.src = some ⟨28, .station [some ⟨1, .normal⟩, none, none, none]⟩ ∧
      parseField .induct f.payload = some (.induct 1)) ∧
    frameMeets (drive1 9 28 0x14 [0, 1, 1, 0, 0, 0, 0]) (fun f => parseField .keyin f.payload = some (.keyin 1 none)) := by
  decide +kernel

/-- The part with a RESTART in flight. -/
def restarting : State := { base with mgmt := { base.mgmt with restart := some ⟨1, some (0, 0)⟩ } }

theorem witness_RestartAndOfflineTurnAway_restart :
    restarting.resetLow = false ∧ onLine restarting = true ∧ restarting.mgmt.restart.isSome = true ∧
    fieldOf (.driveFault 26) = some (26, .drive false) ∧ (26 : Byte).toNat ≠ 0 ∧
    requestOf (.snapshot 5) = some [5, 13] ∧ freeSlot restarting.line = some 0 := by decide +kernel

/-- The part with all four reply slots EXECUTING. -/
def slotsTaken : State :=
  { base with line := { base.line with slots := [(0, .executing 1 2), (1, .executing 2 2), (2, .executing 3 2), (3, .executing 4 2)] } }

theorem witness_OverflowRefusal :
    slotsTaken.resetLow = false ∧ onLine slotsTaken = true ∧ requestOf (.lock 5 0) = some [5, 6, 0] ∧
    freeSlot slotsTaken.line = none := by decide +kernel

theorem witness_RestartAndOfflineTurnAway_offline :
    (powerOn 127).resetLow = false ∧ (powerOn 127).line.nodeAddr = 127 ∧ (powerOn 0).line.nodeAddr = 0 ∧
    (fieldOf (.driveFault 26)).isSome = true ∧ (requestOf (.snapshot 5)).isSome = true := by decide

/-- The part with LINE OUT sending a frame from a source. -/
def sendingFrom (x : TxSource) : State := { base with line := { base.line with sending := some ⟨x, [1, 2]⟩ } }

theorem witness_TransmitCompleteFreesAndChooses_frees :
    base.line.sending = none ∧ (sendingFrom .control).line.sending = some ⟨.control, [1, 2]⟩ ∧
    (sendingFrom .transit).line.sending = some ⟨.transit, [1, 2]⟩ ∧
    (sendingFrom (.reply 3)).line.sending = some ⟨.reply 3, [1, 2]⟩ ∧
    (sendingFrom .report).line.sending = some ⟨.report, [1, 2]⟩ := by decide

/-- The part with LINE OUT idle over a control queue, a transit queue, READY slots and reports. -/
def waiting (cs : List CtrlFrame) (ts : List (List Byte)) (slots : Table Slot) (is : List Nat) (rs : List Report)
    (run : Nat) : State :=
  { base with
    line := { base.line with control := cs, transit := ts, slots := slots, readyOrder := is, runCount := run }
    mgmt := { base.mgmt with reports := rs } }

/-- A reply. -/
def reply1 : Reply := { tag := 7, kind := 10, status := .ok, summary := 0xA2, results := [] }

/-- The part with those frames and LINE OUT sending the front one of a source. -/
def sends (cs : List CtrlFrame) (ts : List (List Byte)) (slots : Table Slot) (is : List Nat) (rs : List Report) (run : Nat)
    (x : TxSource) : State :=
  let s := waiting cs ts slots is rs run
  { s with line := { s.line with sending := some ⟨x, [1]⟩ } }

/-- A completion leaves these frames waiting. -/
def leaves (s : State) (cs : List CtrlFrame) (ts : List (List Byte)) (is : List Nat) (rs : List Report) : Bool :=
  match exec .transmitComplete s with
  | .next t => decide (t.line.control = cs) && decide (t.line.transit = ts) && decide (t.line.readyOrder = is) &&
      decide (t.mgmt.reports = rs)
  | _ => false

theorem witness_TransmitCompleteFreesAndChooses :
    leaves (sends [⟨26, .speed .run⟩, ⟨26, .speed .slow⟩] [[1]] [] [] [] 0 .control) [⟨26, .speed .slow⟩] [[1]] [] [] = true ∧
    leaves (sends [] [[1], [2]] [] [] [] 8 .transit) [] [[2]] [] [] = true ∧
    leaves (sends [] [[1], [2]] [(2, .ready reply1)] [2] [] 7 .transit) [] [[2]] [2] [] = true ∧
    leaves (sends [] [[1], [2]] [(2, .ready reply1)] [2] [] 8 .transit) [] [[2]] [2] [] = true ∧
    leaves (sends [] [[2]] [(2, .ready reply1)] [2] [.track true] 8 (.reply 2)) [] [[2]] [] [.track true] = true ∧
    leaves (sends [] [] [] [] [.track true] 3 .report) [] [] [] [] = true ∧
    base.line.sending = none ∧ Instr.silenceTimerExpiry ≠ .resetnLow ∧
    (∃ t, exec .silenceTimerExpiry base = .next t ∧ t.mgmt.reports = [.track true] ∧ t.line.readyOrder = []) := by
  refine ⟨by decide +kernel, by decide +kernel, by decide +kernel, by decide +kernel, by decide +kernel, by decide +kernel, rfl,
    by decide, _, rfl, by decide +kernel, by decide +kernel⟩

theorem witness_LineOutSendsWholeAndNeverRests :
    (∃ t, exec (.snapshot 5) (sendingFrom .control) = .next t ∧ t.line.sending = some ⟨.control, [1, 2]⟩) ∧
    ∃ t, exec .transmitComplete base = .next t ∧ t.resetLow = false ∧ t.line.sending = none :=
  ⟨⟨_, rfl, by decide +kernel⟩, ⟨_, rfl, by decide +kernel⟩⟩

theorem base_clear : BeltClear base := ⟨rfl, rfl, rfl, rfl, by decide +kernel, rfl⟩

/-- The part before its first TRACK frame, and without a loop configuration. -/
def notReady (c : Option LoopCfg) : State := { base with tracker := { resetTracker with cfg := c } }

theorem witness_TrackFollowsTrackersCourse : Attributed base 20 .encoder := base_encoder

theorem witness_TrackOnClearBelt :
    Attributed (notReady none) 20 .encoder ∧ BeltClear (notReady none) ∧ (notReady none).tracker.cfg = none ∧
    Attributed (notReady (some cfg)) 20 .encoder ∧ BeltClear (notReady (some cfg)) ∧
    (notReady (some cfg)).tracker.state = .notReady ∧ 0 ≤ (4 : BitVec 16).toInt ∧
    ((notReady (some cfg)).tracker.after 200 (4 : BitVec 16).toInt).state = .tracking ∧
    Attributed base 20 .encoder ∧ BeltClear base ∧ base.tracker.cfg = some cfg ∧ base.tracker.state ≠ .notReady ∧
    base.tracker.expected = some 10 ∧ 128 ≤ ((138 : Byte).toNat + 256 - 10) % 256 ∧
    ((14 : Byte).toNat + 256 - 10) % 256 < 128 :=
  ⟨attributed _ 20 ⟨20, .encoder⟩ (by decide), ⟨rfl, rfl, rfl, rfl, by decide +kernel, rfl⟩, rfl,
    attributed _ 20 ⟨20, .encoder⟩ (by decide), ⟨rfl, rfl, rfl, rfl, by decide +kernel, rfl⟩, rfl, by decide, by decide +kernel,
    base_encoder, base_clear, rfl, by decide, rfl, by decide, by decide⟩

/-- The part with one bag on the loop. -/
def one (b : Bag) (s : State) : State := { s with bags := [(3, some b)] }

theorem one_encoder (b : Bag) : Attributed (one b base) 20 .encoder := base_encoder

theorem witness_AdvanceMovesEveryEdge :
    TablesWf (one (bag .routed 9000) base) ∧ (one (bag .routed 9000) base).tracker.cfg = some cfg ∧
    (one (bag .routed 9000) base).tracker.expected = some (10 : Byte).toNat ∧ 1 ≤ (4 : BitVec 16).toInt ∧
    (4 : BitVec 16).toInt ≤ 1023 ∧ windowPlayers (one (bag .routed 9000) base) = [] ∧
    ∀ i b e, (i, some b) ∈ (one (bag .routed 9000) base).bags → b.edge = some e →
      e + (4 : BitVec 16).toInt.toNat < cfg.len ∧ b.state ≠ .diverting ∧
      (∀ v, b.divert = some v → e + (4 : BitVec 16).toInt.toNat < v.fire) ∧
      ∀ k p, b.expEye = some { eye := k, lap := .this } → eyePos cfg k = some p →
        e + (4 : BitVec 16).toInt.toNat ≤ p + tolerance cfg b.uncertain := by
  refine ⟨tables _ (by decide +kernel), rfl, rfl, by decide, by decide, by decide +kernel, ?_⟩
  intro i b e hb he
  simp only [one, List.mem_singleton, Prod.mk.injEq, Option.some.injEq] at hb
  obtain ⟨rfl, rfl⟩ := hb
  cases he
  refine ⟨by decide, by decide, ?_, ?_⟩
  · intro v hv
    cases hv
  · intro k p hk hp
    cases hk
    cases hp
    decide

/-- An UNREAD bag about to pass the lap mark with a recirculation count n. -/
def lapBag (n : Nat) : Bag := { bag .unread 39998 with recirc := n, expEye := some ⟨1, .next⟩ }

theorem witness_LapMarksAndMisses_lap :
    (lapBag 2).state = .unread ∧ (lapBag 2).edge = some 39998 ∧ (lapBag 2).divert = none ∧
    (lapBag 2).expEye = some { eye := 1, lap := .next } ∧ 39998 < cfg.len ∧
    cfg.len ≤ 39998 + (4 : BitVec 16).toInt.toNat ∧ 2048 ≤ cfg.len ∧
    (∀ p, eyePos cfg 1 = some p → 39998 + (4 : BitVec 16).toInt.toNat ≤ cfg.len + p) ∧
    NoneAvailable (one (lapBag 2) base) ∧ (one (lapBag 2) base).bags = [(3, some (lapBag 2))] := by
  refine ⟨rfl, rfl, rfl, rfl, by decide, by decide, by decide, ?_, noneAvailable_of_no_chutes rfl, rfl⟩
  intro p hp
  cases hp
  decide

/-- An UNREAD bag about to pass the end of the window of loop eye 2, with m misses. -/
def missBag (m : Nat) : Bag := { bag .unread 20059 with misses := m, expEye := some ⟨2, .this⟩ }

theorem witness_LapMarksAndMisses_miss :
    (missBag 0).expEye = some { eye := 2, lap := .this } ∧ eyePos cfg 2 = some 20000 ∧
    20059 + (4 : BitVec 16).toInt.toNat < cfg.len ∧
    20000 + tolerance cfg (missBag 0).uncertain < 20059 + (4 : BitVec 16).toInt.toNat ∧ (missBag 0).misses = 0 ∧
    placeEye cfg 3 (20059 + (4 : BitVec 16).toInt.toNat) (tolerance cfg (missBag 0).uncertain) = firstEye cfg .next ∧
    (missBag 1).misses = 1 ∧ (missBag 1).owned = none ∧ (one (missBag 1) base).gate.runTimer = none := by decide

/-- The part with chute 4 loaded, its player in AUTO, and bag 3 ARMED at it. -/
def armedBag : Bag := { bag .armed 9000 with target := some (.sort 4), divert := some ⟨4, 11973, 580, .position 12873⟩ }

def armed : State :=
  { withChute (chute openCage1) (one armedBag base) with
    queues := [(4, [{ bag := 3, rank := none }])]
    players := { profiles := [(2, [{ level := 200, ramp := 60, hold := .window, outs := 0 }])],
                 players := [(7, { resetPlayer with node := some 40, mode := .auto })], lines := [] } }

theorem armed_tables : TablesWf armed := tables _ (by decide +kernel)

theorem nodes_ok : ∀ x ∈ nodes, x.1 < 64 ∧ ∀ e, x.2 = some e → NodeOk 9 e := by
  intro x hx
  simp only [nodes, List.mem_cons, List.not_mem_nil, or_false] at hx
  rcases hx with rfl | rfl | rfl | rfl | rfl | rfl | rfl | rfl | rfl <;>
    refine ⟨by decide, ?_⟩ <;> rintro e ⟨⟩ <;> refine ⟨by decide, by decide, by decide, ?_⟩ <;>
    first
      | trivial
      | exact ⟨rfl, by simp, by simp⟩
      | exact ⟨rfl, by simp⟩

/-- The part with bag 3, which owns code 1, ARMED at chute 4, and a silence expiry waiting. -/
def orderly : State :=
  { sailed { cabin1 with seen := 4 } armed with
    pending := [.silenceTimerExpiry]
    bags := [(3, some { armedBag with owned := some owned1 })] }

theorem queue_empty (s : State) (c : Nat) (h : queueAt s c = []) : QueueOrderly s c := by
  constructor <;> simp [h]

theorem orderly_tables : TablesWf orderly := tables _ (by decide +kernel)

theorem orderly_queue (c : Nat) (h : c ≠ 4) : queueAt orderly c = [] := by
  show tableGet [] [(4, [QEntry.mk 3 none])] c = []
  simp [tableGet, Ne.symm h]

theorem orderly_reserved : Reserved orderly := by
  refine ⟨fun c => ?_, fun c hc => ?_, fun c r hr hs => ?_, by decide +kernel⟩
  · by_cases h : c = 4
    · subst h; decide
    · simp [committed, orderly_queue c h]
  · have h : c ≠ 4 := by omega
    simp [committed, orderly_queue c h]
  · by_cases h : c = 4
    · subst h
      cases hr
      decide
    · have : chuteAt orderly c = none := by
        show tableGet none [(4, some (chute openCage1))] c = none
        simp [tableGet, Ne.symm h]
      rw [this] at hr
      cases hr

theorem orderly_orderly : Orderly orderly := by
  refine ⟨?_, by decide, by decide, by decide, by decide, ?_, by decide, by decide, by decide,
    ⟨by decide, by decide, by decide, by decide, fun _ => Iff.rfl⟩,
    by decide, by decide, nodes_ok, ?_⟩
  · intro x hx
    have h : x = (3, { armedBag with owned := some owned1 }) := by simpa [liveBags, orderly] using hx
    subst h
    refine ⟨by decide, by decide, by decide, by decide, by decide, by decide, by decide, by decide, by decide, ?_, by decide⟩
    intro v hv
    cases hv
    exact ⟨by decide, by decide, rfl⟩
  · intro c _
    by_cases h : c = 4
    · subst h
      exact ⟨by decide, by decide, by decide, by decide, by decide⟩
    · exact queue_empty _ _ (orderly_queue c h)
  · show NodesDistinct nodes
    unfold NodesDistinct
    decide +kernel

theorem bank1_ordered (x : Cabin) (h : 1 ≤ x.number ∧ x.number ≤ 65534) (s : State) :
    BankOrdered (sailed x s).sailing0.active := by
  refine ⟨by intro p hp; exact absurd hp (by simp [sailed]), ?_, fun _ => by show 1 ≤ 0x41 ∧ 0x41 ≤ 254; decide⟩
  intro p hp
  have : p = 0 := by simpa [sailed] using hp
  subst this
  exact h

theorem orderly_tallied : Tallied orderly := by
  have none_listed : BankNumbered emptyBank := List.forall_mem_nil _
  refine ⟨⟨bank1_ordered { cabin1 with seen := 4 } (by decide) armed, ?_, none_listed, by decide +kernel, by rintro w ⟨⟩⟩,
    ⟨⟨by decide, by decide, by decide⟩, none_listed, none_listed, by decide, by rintro w ⟨⟩⟩, by decide, by decide, by rintro ⟨⟩⟩
  unfold BankNumbered
  decide

theorem orderly_limit : WithinLimit orderly := by
  intro x hx _ c hc
  have h : x = (3, { armedBag with owned := some owned1 }) := by simpa [liveBags, orderly] using hx
  subst h
  cases hc
  decide

theorem orderly_bounded : Bounded orderly :=
  ⟨by decide +kernel, by decide +kernel, by decide +kernel, by decide +kernel, (by unfold CountersBounded; decide +kernel),
    by decide +kernel, List.nodup_nil, (by rintro c ⟨⟩), by decide +kernel, by decide +kernel, by decide +kernel,
    by decide +kernel⟩

/-- The part with slot 2 READY. -/
def oneReady : State := { orderly with line := { orderly.line with slots := [(2, .ready reply1)], readyOrder := [2] } }

theorem oneReady_slots : SlotsAgree oneReady := by
  have h : ∀ i, tableGet Slot.free oneReady.line.slots i = if i = 2 then .ready reply1 else .free := by
    intro i
    show tableGet Slot.free [(2, .ready reply1)] i = _
    by_cases hi : i = 2
    · subst hi; rfl
    · simp [tableGet, hi, Ne.symm hi]
  refine ⟨by decide, fun i => ?_, fun i hi => by rw [h, if_neg (by omega)]⟩
  rw [h]
  by_cases hi : i = 2
  · subst hi
    exact ⟨fun _ => ⟨reply1, rfl⟩, fun _ => by decide⟩
  · rw [if_neg hi]
    exact ⟨fun hm => absurd (by simpa [oneReady] using hm) hi, by rintro ⟨r, ⟨⟩⟩⟩

theorem witness_EveryStepKeepsBounds : Bounded orderly ∧ ∃ t, step orderly = .next t := ⟨orderly_bounded, _, rfl⟩
theorem witness_EveryStepKeepsReservations : TablesWf orderly ∧ Reserved orderly ∧ ∃ t, step orderly = .next t :=
  ⟨orderly_tables, orderly_reserved, _, rfl⟩
theorem witness_EveryStepKeepsReplySlots : TablesWf oneReady ∧ SlotsAgree oneReady ∧ ∃ t, step oneReady = .next t :=
  ⟨tables _ (by decide +kernel), oneReady_slots, _, rfl⟩
theorem witness_EveryStepKeepsRecordsAndQueues :
    TablesWf orderly ∧ Reserved orderly ∧ Orderly orderly ∧ ∃ t, step orderly = .next t :=
  ⟨orderly_tables, orderly_reserved, orderly_orderly, _, rfl⟩
theorem witness_EveryStepKeepsRecirculationLimit : WithinLimit orderly := orderly_limit
theorem witness_EveryStepKeepsOwnership : Tallied orderly := orderly_tallied

/-- Bag 3 about to reach its fire position, and the part with its chute, a profile and its players. -/
def firing : Bag :=
  { bag .armed 11970 with expEye := none, owned := some owned1, target := some (.sort 4),
                          divert := some ⟨4, 11973, 580, .position 12873⟩ }

def windowSegment : Segment := { level := 200, ramp := 60, hold := .window, outs := 0 }

def fires (k : Option Nat) (ps : Table Player) (gs : List Segment) : State :=
  { withChute { chute openCage1 with takeaway := k } (one firing base) with
    queues := [(4, [{ bag := 3, rank := none }])]
    players := { profiles := [(2, gs)], players := ps, lines := [] } }

/-- A player in AUTO, playing or not, with a fire pending or not. -/
def autoPlayer (ph : Option Phase) (x : Option Fire) : Player :=
  { resetPlayer with node := some 40, mode := .auto, play := ph.map fun h => { fire := ⟨2, 580, 40⟩, seg := 0, phase := h },
                     pending := x }

theorem witness_AdvanceFiresArmedBag :
    (fires none [(7, autoPlayer none none)] [windowSegment]).bags = [(3, some firing)] ∧ firing.edge = some 11970 ∧
    11970 < 11973 ∧ 11973 ≤ 11970 + (4 : BitVec 16).toInt.toNat ∧ 11970 + (4 : BitVec 16).toInt.toNat < cfg.len ∧
    (∀ p, Deadline.position 12873 = .position p → 11970 + (4 : BitVec 16).toInt.toNat < p) ∧
    Attributed (fires none [(7, autoPlayer none none)] [windowSegment]) 20 .encoder ∧
    windowPlayers (fires none [(7, autoPlayer none none)] [windowSegment]) = [] ∧
    windowPlayers (fires none [(7, autoPlayer (some (.time 20)) none)] [windowSegment]) = [] ∧
    windowPlayers (fires none [(7, autoPlayer (some (.window 100 580 580)) none)] [windowSegment]) = [7] ∧
    100 + (4 : BitVec 16).toInt.toNat < 580 ∧ 100 + (4 : BitVec 16).toInt.toNat ≤ 580 + 40 ∧
    windowPlayers (fires (some 8) [(7, autoPlayer none none), (8, autoPlayer (some (.ramp 5)) (some ⟨2, 1, 1⟩))]
      [windowSegment]) = [] ∧
    profileAt (fires none [(7, autoPlayer none none)] []) 2 = [] ∧
    firePos 12000 500 (leadOf (fires none [] []).tracker.speed 145) ≤ 11970 + (4 : BitVec 16).toInt.toNat := by
  refine ⟨rfl, rfl, by decide, by decide, by decide, ?_, attributed _ 20 ⟨20, .encoder⟩ (by decide +kernel), by decide +kernel,
    by decide +kernel, by decide +kernel, by decide, by decide, by decide +kernel, by decide, by decide⟩
  rintro p ⟨⟩
  decide

theorem witness_SilenceEntersBlind :
    (notReady none).tracker.silence = false ∧
    ({ base with tracker := { tracker with state := .blind } } : State).tracker.state = .blind ∧
    armed.tracker.silence = true ∧ armed.tracker.state = .tracking ∧ TablesWf armed ∧ armed.mgmt.reports.length < 64 ∧
    3 ∈ armedAt armed 4 ∧ bagAt armed 3 = some armedBag ∧ armedBag.divert = some ⟨4, 11973, 580, .position 12873⟩ :=
  ⟨rfl, rfl, rfl, rfl, armed_tables, by decide, by decide, rfl, rfl⟩

theorem witness_SilenceEntersBlind_all :
    orderly.tracker.silence = true ∧ orderly.tracker.state = .tracking ∧ TablesWf orderly ∧ Orderly orderly ∧
    windowPlayers orderly = [] := ⟨rfl, rfl, orderly_tables, orderly_orderly, by decide +kernel⟩

theorem base_eyes :
    Attributed base 21 (.eye [some .entry, some (.loop 1), some (.loop 3), some (.chute 4)]) :=
  attributed base 21 ⟨21, _⟩ (by decide)

theorem base_reader0 : Attributed base 22 (.scanner 0) := attributed base 22 ⟨22, _⟩ (by decide)
theorem base_reader1 : Attributed base 27 (.scanner 1) := attributed base 27 ⟨27, _⟩ (by decide)

theorem witness_StaleAndUnplacedEvents :
    Attributed (notReady none) 21 (.eye [some .entry, some (.loop 1), some (.loop 3), some (.chute 4)]) ∧
    (notReady none).tracker.cfg = none ∧ eyePos cfg 3 = none ∧ (∀ k, EyeId.entry = .loop k → (eyePos cfg k).isSome = true) ∧
    (∀ h ∈ base.tracker.history, h.seq ≠ (200 : Byte).toNat) ∧ readerPos cfg 1 = none ∧ (readerPos cfg 0).isSome = true ∧
    Attributed base 22 (.scanner 0) ∧ Attributed base 27 (.scanner 1) :=
  ⟨attributed _ 21 ⟨21, _⟩ (by decide), rfl, rfl, (by intro k h; cases h), by decide, rfl, rfl, base_reader0, base_reader1⟩

theorem base_station0 : Attributed base 23 (.station [some ⟨0, .normal⟩, none, some ⟨3, .encode⟩, none]) :=
  attributed base 23 ⟨23, _⟩ (by decide)

/-- The part in STANDBY, its belt stopped, and the part with a request waiting at station 3. -/
def standby : State := { base with gate := { base.gate with speed := .standby } }
def waitingAt3 : State := { base with gate := { base.gate with slots := [(3, some .encode)], speed := .slow } }

theorem witness_InductWaitsOrIsGranted_waits :
    Attributed waitingAt3 23 (.station [some ⟨0, .normal⟩, none, some ⟨3, .encode⟩, none]) ∧
    stationAddr waitingAt3 3 = some (23, 2) ∧ requestAt waitingAt3 3 = some .encode ∧
    Attributed (held standby) 23 (.station [some ⟨0, .normal⟩, none, some ⟨3, .encode⟩, none]) ∧
    stationAddr (held standby) 0 = some (23, 0) ∧ requestAt (held standby) 0 = none ∧
    grantAllowed (awake { held standby with gate := { standby.gate with slots := [(0, some .normal)] } }) = false :=
  ⟨attributed _ 23 ⟨23, _⟩ (by decide), by decide, by decide, attributed _ 23 ⟨23, _⟩ (by decide), by decide, by decide,
    by decide +kernel⟩

theorem witness_InductWaitsOrIsGranted_granted :
    stationAddr base 0 = some (23, 0) ∧ base.gate.slots = [] ∧ base.tracker.cfg = some cfg ∧ base.gate.speed = .run ∧
    cfg.vRun ≤ base.tracker.speed ∧ base.gate.drive = .ready ∧ base.gate.inFlight = none ∧ liveCount base < cfg.loopLimit ∧
    liveCount base < 512 ∧ spanClear cfg base = true ∧ LowestFree base 0 :=
  ⟨by decide, rfl, rfl, rfl, by decide, rfl, rfl, by decide, by decide, by decide, by decide, rfl, (by intro j h; cases h)⟩

/-- Three stations waiting, of which 1 and 2 are mapped no longer; the pointer at 0. -/
def waitingMany : State :=
  { base with
    nodes := [(3, some { addr := 23, role := .station [some ⟨0, .normal⟩, none, some ⟨3, .encode⟩, none] })]
    gate := { base.gate with slots := [(1, some .normal), (2, some .encode), (3, some .encode)], pointer := 0 } }

theorem witness_InductWaitsOrIsGranted_several :
    Attributed waitingMany 23 (.station [some ⟨0, .normal⟩, none, some ⟨3, .encode⟩, none]) ∧ requestAt waitingMany 0 = none ∧
    TablesWf waitingMany ∧ waitingMany.strays.keyedOrder = [] ∧ stationAddr waitingMany 3 = some (23, 2) ∧
    (List.range 4).map (fun d => (waitingMany.gate.pointer + 1 + d) % 4) = [1, 2] ++ 3 :: [0] ∧
    (∀ d ∈ [1, 2], stationAddr waitingMany d = none) ∧
    tableGet none (tablePut none waitingMany.gate.slots 0 (some .normal)) 3 = some .encode ∧
    ([1, 2] ++ [3]).foldl (fun q d => tablePut none q d none) (tablePut none waitingMany.gate.slots 0 (some .normal)) =
      [(0, some .normal)] ∧
    waitingMany.gate.inFlight = none ∧ spanClear cfg waitingMany = true ∧ LowestFree waitingMany 0 :=
  ⟨attributed _ 23 ⟨23, _⟩ (by decide), by decide, tables _ (by decide +kernel), rfl, by decide, by decide, by decide, by decide,
    by decide, rfl, by decide, by decide, rfl, (by intro j h; cases h)⟩

/-- The part with a KEYED entry at slot 117, at the head of the keyed order, and the STRAY chute it came by. -/
def keyedBench : State :=
  { withChute { chute absentCage with role := .stray, mode := .pooled, cls := none } base with strays :=
    { entries := [{ slot := 117, reason := .noRead, codes := [], len := 514, keyed := some owned1 }], keyedOrder := [117],
      nextSlot := 118 } }

theorem witness_InductWaitsOrIsGranted_encode :
    Attributed keyedBench 23 (.station [some ⟨0, .normal⟩, none, some ⟨3, .encode⟩, none]) ∧
    stationAddr keyedBench 3 = some (23, 2) ∧ spanClear cfg keyedBench = true ∧ LowestFree keyedBench 0 ∧
    keyedBench.strays.keyedOrder = 117 :: [] ∧ 117 ∉ ([] : List Nat) ∧
    keyedBench.strays.entries = [] ++ { slot := 117, reason := .noRead, codes := [], len := 514, keyed := some owned1 } :: [] ∧
    keyedBench.strays.entries.length + strayCommitted keyedBench < 64 :=
  ⟨attributed _ 23 ⟨23, _⟩ (by decide +kernel), by decide, by decide, ⟨by decide, rfl, (by intro j h; cases h)⟩, rfl, by simp, rfl,
    by decide +kernel⟩

theorem witness_MergeSpanMeetsBody :
    200 < cfg.len ∧ 1 ≤ 500 ∧ 500 ≤ cfg.len ∧ cfg.gapBefore + cfg.maxBag + cfg.gapAfter < cfg.len ∧
    bodyInSpan cfg 200 500 = true ∧ bodyInSpan cfg 9000 500 = false := by decide

theorem base_drive : Attributed base 26 .drive := attributed base 26 ⟨26, .drive⟩ (by decide)

/-- The part with the drive in FAULT. -/
def faulted : State := { base with gate := { base.gate with drive := .fault } }

theorem witness_DriveFramesAndIdleTimers_drive :
    Attributed base 26 .drive ∧ base.gate.drive = .ready ∧ Attributed faulted 26 .drive ∧ faulted.gate.drive = .fault ∧
    faulted.gate.slots = [] := ⟨base_drive, rfl, attributed _ 26 ⟨26, .drive⟩ (by decide), rfl, rfl⟩

/-- The part with both idle timers as given. -/
def timers (a b : Option Nat) (v : SpeedState) : State :=
  { base with gate := { base.gate with runTimer := a, slowTimer := b, speed := v } }

theorem witness_DriveFramesAndIdleTimers_timers :
    (timers none none .run).gate.runTimer = none ∧ (timers (some 30) none .run).gate.runTimer.isSome = true ∧
    (timers none (some 300) .slow).gate.slowTimer.isSome = true := by decide

/-- The part with bag 3 INDUCTING, its induct count run out, and with an entry measurement at the maximum. -/
def inducting : Bag := { bag .inducting 0 with edge := none, len := none, expEye := none }
def noShow : State :=
  { one inducting base with gate := { base.gate with inFlight := some ⟨3, 0⟩ } }
def long (m : Nat) : State :=
  { one (bag .unread 1400) base with gate := { base.gate with entryMeas := some ⟨3, m⟩ } }

theorem witness_InductTimeoutAndEntryOversize :
    (∀ i, base.gate.inFlight ≠ some { bag := i, remaining := 0 }) ∧
    noShow.gate.inFlight = some { bag := 3, remaining := 0 } ∧ noShow.bags = [(3, some inducting)] ∧
    inducting.owned = none ∧ noShow.gate.runTimer = none ∧
    (∀ c m, (long 1199).tracker.cfg = some c → (long 1199).gate.entryMeas = some m → m.m < c.maxBag) ∧
    (long 1200).gate.entryMeas = some { bag := 3, m := 1200 } ∧ cfg.maxBag ≤ 1200 ∧
    bagAt (long 1200) 3 = some (bag .unread 1400) := by
  refine ⟨(by intro i h; cases h), rfl, rfl, rfl, rfl, ?_, rfl, by decide, rfl⟩
  intro c m hc hm
  cases hc
  cases hm
  decide

/-- A DIVERTING bag at the maximum of its entry measurement. -/
def longDiverting : State :=
  { one { bag .diverting 1400 with target := some (.stray .noRead), divert := some ⟨5, 1300, 580, .position 2200⟩ } base with
    gate := { base.gate with entryMeas := some ⟨3, 1200⟩ } }

theorem witness_InductTimeoutAndEntryOversize_diverting :
    longDiverting.gate.entryMeas = some { bag := 3, m := 1200 } ∧ cfg.maxBag ≤ 1200 ∧
    (bagAt longDiverting 3).map (·.state) = some .diverting ∧ longDiverting.loopMeas = [] := by decide

/-- The part with one bag, and a count of the gate, an eye or a deadline standing at n. -/
def runsDown (b : Bag) (f : Gate → Gate) (s : State) : State := { one { b with expEye := none } s with gate := f base.gate }

/-- Bag 3 DIVERTING at chute 4, short of loop eye 2, its confirm deadline as given, with that chute and chute 5 of its class at
p. -/
def deadlined (d : Deadline) (p : Nat) : State :=
  { one { bag .diverting 12100 with expEye := some ⟨2, .this⟩, owned := some owned1, target := some (.sort 4),
                                    divert := some ⟨4, 12023, 580, d⟩ } base with
    chutes := [(4, some (chute openCage1)), (5, some { chute { openCage1 with id := 302 } with pos := p, diverter := 9 })]
    queues := [(4, [{ bag := 3, rank := some 1 }])]
    players := { profiles := [], players := [(7, { resetPlayer with mode := .auto }), (9, { resetPlayer with mode := .auto })],
                 lines := [] } }

/-- Bag 3 missed there, and ROUTED again. -/
def missedBag : Bag := { bag .routed 12104 with expEye := some ⟨2, .this⟩, owned := some owned1, target := some (.sort 4) }
def deadlineMissed (p : Nat) : State :=
  bump .missedDiverts { deadlined (.position 12103) p with bags := [(3, some missedBag)], queues := [] }

theorem witness_AdvanceRunsCountsDown :
    Attributed (runsDown inducting (fun g => { g with inFlight := some ⟨3, 4⟩ }) base) 20 .encoder ∧
    (runsDown inducting (fun g => { g with inFlight := some ⟨3, 4⟩ }) base).gate.inFlight = some { bag := 3, remaining := 4 } ∧
    (4 : BitVec 16).toInt.toNat < 5 ∧ 4 ≤ (4 : BitVec 16).toInt.toNat ∧ base.gate.speed = .run ∧ base.gate.runTimer = none ∧
    (runsDown (bag .unread 1400) (fun g => { g with entryMeas := some ⟨3, 1196⟩ }) base).gate.entryMeas =
      some { bag := 3, m := 1196 } ∧ 1195 + (4 : BitVec 16).toInt.toNat < cfg.maxBag ∧
    cfg.maxBag ≤ 1196 + (4 : BitVec 16).toInt.toNat ∧ NoneAvailable (held (withChute (chute openCage1) base)) ∧
    (({ base with loopMeas := [(1, some ⟨3, 600⟩)] } : State).loopMeas = [(1, some { bag := 3, m := 600 })]) :=
  ⟨attributed _ 20 ⟨20, .encoder⟩ (by decide +kernel), rfl, by decide, by decide, rfl, rfl, rfl, by decide, by decide,
    noneAvailable_of_sortHold rfl, rfl⟩

/-- The deadline's clauses: the chutes 4 and 5 are loaded, AUTO and available after the miss. With chute 5 behind the bag none is
reachable, and with it ahead it is. -/
theorem witness_AdvanceRunsCountsDown_missed :
    Attributed (deadlined (.position 12103) 20000) 20 .encoder ∧ TablesWf (deadlined (.position 12103) 20000) ∧
    12100 + (4 : BitVec 16).toInt.toNat ≤ 20000 + tolerance cfg false ∧ eyePos cfg 2 = some 20000 ∧
    12100 < 12103 ∧ 12103 ≤ 12100 + (4 : BitVec 16).toInt.toNat ∧ ((3 : Nat) : Int) ≤ (4 : BitVec 16).toInt.toNat ∧
    available (deadlineMissed 20000) 4 = true ∧ available (deadlineMissed 20000) 5 = true ∧
    reachable (deadlineMissed 20000) missedBag (chute openCage1) = false ∧
    reachable (deadlineMissed 20000) missedBag { chute openCage1 with pos := 20000 } = true ∧
    (∀ k r, chuteAt (deadlined (.position 12103) 5000) k = some r →
      reachable (deadlineMissed 5000) missedBag r = false) := by
  refine ⟨attributed _ 20 ⟨20, .encoder⟩ (by decide +kernel), tables _ (by decide +kernel), by decide, rfl, by decide, by decide,
    by decide, by decide +kernel, by decide +kernel, by decide, by decide, ?_⟩
  intro k r h
  simp only [chuteAt, deadlined, tableGet] at h
  repeat' split at h
  all_goals cases h
  all_goals decide

/-- The WINDOW hold of player 7, its chute loaded and the bag it was fired for DIVERTING; a pending fire. -/
theorem witness_AdvanceRunsCountsDown_window :
    (let s := fires none [(7, autoPlayer (some (.window 576 580 580)) none)] [windowSegment, windowSegment]
     windowPlayers s = [7] ∧ 580 ≤ 576 + (4 : BitVec 16).toInt.toNat ∧ (profileAt s 2)[0 + 1]? = some windowSegment) ∧
    windowPlayers { deadlined (.position 12923) 20000 with
      players := (fires none [(7, autoPlayer (some (.window 576 580 580)) (some ⟨2, 580, 40⟩))] [windowSegment]).players } = [7] ∧
    12100 + (4 : BitVec 16).toInt.toNat < 12923 := by decide +kernel

/-- The part with bag 3 INDUCTING and in flight. -/
def flying : State := { one inducting base with gate := { base.gate with inFlight := some ⟨3, 1500⟩ } }

theorem stamp9 (s : State) (h : s.tracker = tracker) : Stamped s 9 0 := stamped s (by rw [h]; rfl)

theorem witness_EntryEyeEvents :
    Attributed flying 21 (.eye [some .entry, some (.loop 1), some (.loop 3), some (.chute 4)]) ∧
    Stamped flying (9 : Byte).toNat 0 ∧ flying.gate.inFlight = some { bag := 3, remaining := 1500 } ∧
    flying.gate.entryMeas = none ∧ bagAt flying 3 = some inducting ∧ LowestFree base 0 ∧
    Attributed (long 600) 21 (.eye [some .entry, some (.loop 1), some (.loop 3), some (.chute 4)]) ∧
    Stamped (long 600) (9 : Byte).toNat 0 ∧ (long 600).gate.entryMeas = some { bag := 3, m := 600 } :=
  ⟨attributed _ 21 ⟨21, _⟩ (by decide), stamp9 _ rfl, rfl, rfl, rfl, ⟨by decide, rfl, (by intro j h; cases h)⟩,
    attributed _ 21 ⟨21, _⟩ (by decide), stamp9 _ rfl, rfl⟩

/-- The same, the bag owning code 1. -/
def flyingPaired (x : Cabin) : State :=
  sailed x { one { inducting with owned := some owned1 } base with gate := { base.gate with inFlight := some ⟨3, 1500⟩ } }

theorem witness_EntryEyeEvents_paired :
    Attributed (flyingPaired cabin1) 21 (.eye [some .entry, some (.loop 1), some (.loop 3), some (.chute 4)]) ∧
    Stamped (flyingPaired cabin1) (9 : Byte).toNat 0 ∧ bagAt (flyingPaired cabin1) 3 = some { inducting with owned := some owned1 } ∧
    inducting.recirc ≤ cfg.recircLimit ∧ (flyingPaired cabin1).sailing0.active.code = sailingField owned1.code ∧
    bankFind (flyingPaired cabin1).sailing0.active (cabinField owned1.code) = some (0, cabin1) ∧
    bankFind (flyingPaired { cabin1 with number := 9 }).sailing0.active (cabinField owned1.code) = none ∧
    NoneAvailable (held (withChute (chute openCage1) (flyingPaired cabin1))) :=
  ⟨attributed _ 21 ⟨21, _⟩ (by decide +kernel), stamp9 _ rfl, rfl, by decide, by decide, by decide, by decide,
    noneAvailable_of_sortHold rfl⟩

/-- Three candidates at loop eye 1: bag 3 behind it, bag 5 as far beyond it, bag 7 further behind. -/
def threeNear : State :=
  { base with bags := [(3, some (bag .unread 9980)), (5, some (bag .unread 10020)), (7, some (bag .routed 9970))] }

theorem witness_LoopEyeMatchCorrectsEdge :
    Attributed threeNear 21 (.eye [some .entry, some (.loop 1), some (.loop 3), some (.chute 4)]) ∧
    eyePos cfg 1 = some 10000 ∧ Stamped threeNear (9 : Byte).toNat 0 ∧ TablesWf threeNear ∧
    bagAt threeNear 5 = some (bag .unread 10020) ∧ (bag .unread 10020).expEye = some { eye := 1, lap := .this } ∧
    eyeError cfg.len 10020 10000 0 = -20 ∧ eyeError cfg.len 9980 10000 0 = 20 ∧ eyeError cfg.len 9970 10000 0 = 30 ∧
    (20 : Int).natAbs ≤ tolerance cfg false :=
  ⟨attributed _ 21 ⟨21, _⟩ (by decide), rfl, stamp9 _ rfl, tables _ (by decide +kernel), rfl, rfl, by decide +kernel⟩

/-- A loop whose first eye stands short of the lap mark, bag 3 alone 10 counts short of it, 60 counts after the stamp 9. -/
def lapCfg : LoopCfg := { cfg with eyes := some 39980 :: cfg.eyes.tail }

def lapping (b : Bag) : State :=
  { base with
    tracker := { tracker with cfg := some lapCfg, history := [HistEntry.mk 9 108 4, HistEntry.mk 10 168 60] }
    bags := [(3, some b)] }

theorem witness_LoopEyeMatchCorrectsEdge_lap :
    eyePos lapCfg 1 = some 39980 ∧ Stamped (lapping (bag .unread 39990)) (9 : Byte).toNat 60 ∧
    eyeError lapCfg.len 39990 39980 60 = 50 ∧ (50 : Int).natAbs ≤ tolerance lapCfg false ∧ (39980 + 60) % lapCfg.len < 39990 ∧
    NoneAvailable (lapping (bag .unread 39990)) :=
  ⟨rfl, ⟨[], HistEntry.mk 9 108 4, [HistEntry.mk 10 168 60], rfl, rfl, by simp, rfl⟩, by decide +kernel, by decide,
    by decide, noneAvailable_of_no_chutes rfl⟩

/-- An OVERFLOW bag short of loop eye 1 that chute 4 was armed for, and the chute, its diverter in AUTO. -/
def crossing (st : BagState) (d : Deadline) : State :=
  { base with
    bags := [(3, some { bag st 9950 with target := some (.overflow .noRead), divert := some ⟨4, 9990, 500, d⟩ })]
    chutes := [(4, some { chute absentCage with role := .overflow })], queues := [(4, [{ bag := 3, rank := none }])]
    players := { base.players with players := [(7, { resetPlayer with mode := .auto })] } }

theorem witness_LoopEyeMatchCorrectsEdge_crossings :
    Attributed (crossing .armed (.position 10890)) 21 (.eye [some .entry, some (.loop 1), some (.loop 3), some (.chute 4)]) ∧
    eyeError cfg.len 9950 10000 0 = 50 ∧ 9950 < 9990 ∧ 9990 ≤ (10000 + 0) % cfg.len ∧
    (playerAt (crossing .armed (.position 10890)) 7).mode = .auto ∧
    (crossing .diverting (.position 10000)).bags.length = 1 ∧ 10000 ≤ (10000 + 0) % cfg.len :=
  ⟨attributed _ 21 ⟨21, _⟩ (by decide), by decide +kernel⟩

/-- The part with a measurement of bag 3 open at loop eye 1. -/
def measuring (m : Nat) : State := { one (bag .unread 10400) base with loopMeas := [(1, some ⟨3, m⟩)] }

theorem witness_LoopEyeGhostAndMeasure :
    base.tracker.cfg = some cfg ∧ eyePos cfg 1 = some 10000 ∧ LowestFree base 0 ∧
    (∀ i b, (i, some b) ∈ base.bags → candidate cfg 1 10000 0 b = none) ∧
    Attributed (measuring 520) 21 (.eye [some .entry, some (.loop 1), some (.loop 3), some (.chute 4)]) ∧
    measureAt (measuring 520) 1 = some { bag := 3, m := 520 } ∧ bagAt (measuring 520) 3 = some (bag .unread 10400) ∧
    measureAt (measuring 1200) 1 = some ⟨3, 1200⟩ ∧ cfg.maxBag ≤ 1200 ∧
    ∀ m, measureAt (measuring 1199) 1 = some m → m.m < cfg.maxBag := by
  refine ⟨rfl, rfl, ⟨by decide, rfl, (by intro j h; cases h)⟩, (by intro i b h; cases h), attributed _ 21 ⟨21, _⟩ (by decide),
    rfl, rfl, rfl, by decide, ?_⟩
  intro m h
  cases h
  decide

/-- Bag 3 under reader 0, UNREAD and unmeasured. -/
def scanned : Bag := { bag .unread 700 with expEye := some ⟨1, .this⟩ }

theorem witness_ScanTakesAndRoutes :
    Attributed (sailed cabin1 (one scanned base)) 22 (.scanner 0) ∧ readerPos cfg 0 = some 600 ∧
    Stamped (sailed cabin1 (one scanned base)) (9 : Byte).toNat 0 ∧ scanDistance cfg 600 0 scanned = some 100 ∧
    scanned.recirc ≤ cfg.recircLimit ∧ wellFormedCode code1 = true ∧
    (sailed cabin1 (one scanned base)).sailing0.code = some (sailingField code1) ∧
    bankFind (sailed cabin1 (one scanned base)).sailing0.active (cabinField code1) = some (0, cabin1) ∧
    hasSerial cabin1.seen (serialField code1) = false :=
  ⟨attributed _ 22 ⟨22, _⟩ (by decide), rfl, stamp9 _ rfl, by decide, by decide, by decide, by decide, by decide, by decide⟩

/-- The part with a carrying walk of sailing 0 whose cursor stands at a number, over one record of cabin 10234. -/
def carrying (n : Nat) (s : State) : State :=
  { s with sailing0 := { s.sailing0 with
      staging := { code := 0x41, count := 1, recs := [(0, cabin1)], map := [] }, walk := some ⟨some n, true, 1, [], 2⟩ } }

theorem witness_ScanTakesAndRoutes_mirrored :
    bankFind (carrying 10234 (sailed cabin1 (one scanned base))).sailing0.active (cabinField code1) = some (0, cabin1) ∧
    mirrored (carrying 10234 (sailed cabin1 (one scanned base))).sailing0 code1 (withSeen code1) =
      { code := 0x41, count := 1, recs := [(0, { cabin1 with seen := 4 })], map := [] } := by decide

/-- Cabin 10234 with serial 2 seen. -/
def cabinSeen : Cabin := { cabin1 with seen := 4 }

theorem witness_ScanStraysOrIsIgnored :
    (∀ i b, (i, some b) ∈ base.bags → scanDistance cfg 600 0 b = none) ∧ scanDistance cfg 600 0 scanned = some 100 ∧
    wellFormedCode 0x4127FA28 = false ∧ wellFormedCode 0x4127FC2B = true ∧ (0x4127FC2B : TagCode) ≠ code1 ∧
    sailingLookup (one scanned base) code1 = none ∧ sailingLookup (sailed cabinSeen (one scanned base)) code1 = some 0 ∧
    cabinLookup (sailed cabinSeen (one scanned base)) 0 code1 = some (0, cabinSeen) ∧
    hasSerial cabinSeen.seen (serialField code1) = true :=
  ⟨(by intro i b h; cases h), by decide, by decide, by decide, by decide, by decide, by decide, by decide, by decide⟩

/-- Bag 3 under reader 0, ROUTED. -/
def routedUnder (o : Option Owned) (t : Target) (n : Nat) : Bag := { bag .routed 700 with owned := o, target := some t, recirc := n }

theorem witness_LateReadsAndRescans :
    Attributed (sailed cabin1 (one (routedUnder none (.stray .noRead) 3) base)) 22 (.scanner 0) ∧
    scanDistance cfg 600 0 (routedUnder none (.stray .noRead) 3) = some 100 ∧ cfg.recircLimit < 3 ∧
    sailingLookup (one (routedUnder none (.stray .noRead) 3) base) code1 = none ∧
    sailingLookup (sailed cabin1 (one (routedUnder none (.stray .noRead) 3) base)) code1 = some 0 ∧
    cabinLookup (sailed cabin1 (one (routedUnder none (.stray .noRead) 3) base)) 0 code1 = some (0, cabin1) ∧
    cabinLookup (sailed cabin1 (one (routedUnder none (.stray .noRead) 3) base)) 0 0x4127FC2B = none ∧
    sailingLookup (sailed cabin1 (one (routedUnder none (.stray .noRead) 3) base)) 0x4127FC2B = some 0 ∧
    (routedUnder (some owned1) (.sort 4) 0).owned = some owned1 ∧ wellFormedCode owned1.code = true ∧
    (0x4127FC2B : TagCode) ≠ owned1.code :=
  ⟨attributed _ 22 ⟨22, _⟩ (by decide +kernel), by decide, by decide, by decide, by decide, by decide, by decide, by decide, rfl,
    by decide, by decide⟩

/-- An OVERSIZE bag under reader 0 that owns no code, by the target it holds. -/
def oversizeUnder (t : Target) : State := sailed cabin1 (one { routedUnder none t 0 with oversize := true } base)

theorem witness_LateReadsAndRescans_oversize :
    Attributed (oversizeUnder (.stray .oversize)) 22 (.scanner 0) ∧ Attributed (oversizeUnder (.overflow .oversize)) 22 (.scanner 0) ∧
    scanDistance cfg 600 0 { routedUnder none (.stray .oversize) 0 with oversize := true } = some 100 ∧
    sailingLookup (oversizeUnder (.stray .oversize)) code1 = some 0 ∧
    cabinLookup (oversizeUnder (.stray .oversize)) 0 code1 = some (0, cabin1) :=
  ⟨attributed _ 22 ⟨22, _⟩ (by decide +kernel), attributed _ 22 ⟨22, _⟩ (by decide +kernel), by decide +kernel⟩

/-- Bag 3 ROUTED to class 4 with code 1. -/
def routed1 : Bag := { bag .routed 5000 with owned := some owned1, target := some (.sort 4) }

theorem base_screening : Attributed base 24 .screening := attributed base 24 ⟨24, .screening⟩ (by decide)

/-- A part with a hold list. -/
def holding (cs : List TagCode) (s : State) : State := { s with holds := cs }

theorem witness_HoldFramesEditList :
    wellFormedCode 0xFF27FA22 = false ∧ wellFormedCode code1 = true ∧ code1 ∈ (holding [code1] base).holds ∧
    code1 ∉ (holding (List.replicate 32 1) base).holds ∧ 32 ≤ (holding (List.replicate 32 1) base).holds.length ∧
    (∀ i b, (i, some b) ∈ base.bags → b.owned.map (·.code) ≠ some code1) ∧
    (one routed1 base).bags = [(3, some routed1)] ∧ routed1.owned = some owned1 ∧ owned1.code = code1 :=
  ⟨by decide, by decide, by decide, by decide, by decide, (by intro i b h; cases h), rfl, rfl, rfl⟩

theorem witness_LeadFireAndWindow : 4096 ≤ 12000 ∧ 12000 + 1024 ≤ cfg.len ∧ 1 ≤ 600 ∧ 600 ≤ 2047 := by decide

/-- The part with bag 3 DIVERTING at chute 4, of one kind, and nothing else on the loop. -/
def landing (b : Bag) (r : Chute) : State :=
  { withChute r (sailed { cabin1 with seen := 4 } (one b base)) with queues := [(4, [{ bag := 3, rank := some 1 }])] }

def diverting (o : Option Owned) (t : Target) : Bag :=
  { bag .diverting 12100 with owned := o, target := some t, divert := some ⟨4, 12023, 580, .position 12923⟩ }

/-- Chute 4 in another role. -/
def roleChute (r : ChuteRole) : Chute := { chute absentCage with role := r, mode := .pooled, cls := none }

theorem landing_eyes (b : Bag) (r : Chute) :
    Attributed (landing b r) 21 (.eye [some .entry, some (.loop 1), some (.loop 3), some (.chute 4)]) :=
  attributed _ 21 ⟨21, _⟩ ⟨rfl, rfl, by decide, by show (21 : Byte).toNat ≠ 9; decide, rfl, rfl⟩

/-- A landing that completes cabin 10234 and fills a pooled chute's cage of three. -/
def lastCabin : Cabin := { cabin1 with seen := 6, loaded := 2 }
def lastChute : Chute := { chute { openCage1 with loaded := [1, 2] } with mode := .pooled, cls := none }
def lastLanding : State :=
  { landing (diverting (some owned1) (.sort 4)) lastChute with sailing0 := (sailed lastCabin base).sailing0 }

theorem witness_ChuteEyeLandsBag_full :
    TablesWf lastLanding ∧ lastCabin.expected ≠ 0 ∧
    serialCount (lastCabin.loaded ||| serialBit (serialField owned1.code)) = lastCabin.expected ∧ lastCabin.done = false ∧
    lastChute.cage.state = .opened ∧ lastChute.cage.loaded.length + 1 = lastChute.capacity :=
  ⟨tables _ (by decide +kernel), by decide, by decide, rfl, rfl, rfl⟩

theorem witness_ChuteEyeLandsBag :
    TablesWf (landing (diverting none (.overflow .noRead)) (roleChute .overflow)) ∧
    TablesWf (landing (diverting none (.stray .noRead)) (roleChute .stray)) ∧
    TablesWf (landing (diverting (some owned1) (.sort 4)) (chute absentCage)) ∧
    TablesWf (landing (diverting (some owned1) (.sort 4)) (chute openCage1)) ∧
    (landing (diverting none (.stray .noRead)) (roleChute .stray)).strays.entries = [] ∧
    (landing (diverting (some owned1) (.sort 4)) (chute openCage1)).sailing0.active.code = sailingField owned1.code ∧
    bankFind (landing (diverting (some owned1) (.sort 4)) (chute openCage1)).sailing0.active (cabinField owned1.code) =
      some (0, cabinSeen) ∧ openCage1.state ≠ .absent :=
  ⟨tables _ (by decide +kernel), tables _ (by decide +kernel), tables _ (by decide +kernel), tables _ (by decide +kernel), rfl,
    by decide, by decide, by decide⟩

/-- Bag 3 lands at a chute with three bags DIVERTING, its entry in the middle of the queue, and bag 9 goes by UNREAD. -/
def landingThree : State :=
  { landing (diverting none (.overflow .noRead)) (roleChute .overflow) with
    queues := [(4, [⟨5, some 2⟩, ⟨3, some 1⟩, ⟨7, some 3⟩])]
    bags := [(3, some (diverting none (.overflow .noRead))), (5, some (diverting none (.overflow .held))),
             (7, some (diverting none (.overflow .held))), (9, some (bag .unread 900))] }

theorem witness_ChuteEyeLandsBag_several :
    TablesWf landingThree ∧ queueAt landingThree 4 = [⟨5, some 2⟩] ++ { bag := 3, rank := some 1 } :: [⟨7, some 3⟩] ∧
    (∀ e ∈ [(⟨5, some 2⟩ : QEntry), ⟨7, some 3⟩], e.bag ≠ 3 ∧ e.rank ≠ some 1) ∧
    (∀ j x, bagAt landingThree j = some x → x.state ≠ .routed ∧ x.state ≠ .armed) ∧
    ([(⟨5, some 2⟩ : QEntry), ⟨7, some 3⟩].map fun e => { e with rank := e.rank.map fun m => if 1 < m then m - 1 else m }) =
      [⟨5, some 1⟩, ⟨7, some 2⟩] ∧ landingThree.gate.slowTimer = none := by
  refine ⟨tables _ (by decide +kernel), rfl, by decide, ?_, by decide, rfl⟩
  intro j x h
  simp only [bagAt, landingThree, tableGet] at h
  repeat' split at h
  all_goals cases h
  all_goals decide

theorem witness_ChuteEyeLandsBag_mirrored :
    TablesWf (carrying 10234 lastLanding) ∧
    bankFind (carrying 10234 lastLanding).sailing0.active (cabinField owned1.code) = some (0, lastCabin) ∧
    (mirrored (carrying 10234 lastLanding).sailing0 owned1.code fun y =>
      { y with loaded := y.loaded ||| serialBit (serialField owned1.code) }).recs = [(0, { cabin1 with loaded := 4 })] :=
  ⟨tables _ (by decide +kernel), by decide, by decide⟩

theorem witness_ChuteEyeClearAndUnexplained :
    Attributed (withChute (chute openCage1) base) 21 (.eye [some .entry, some (.loop 1), some (.loop 3), some (.chute 4)]) ∧
    (∀ e ∈ queueAt (withChute (chute openCage1) base) 4, e.rank ≠ some 1) ∧
    chuteAt (withChute (chute openCage1) base) 4 = some (chute openCage1) ∧
    ∀ r, chuteAt base 4 = some r → r.role ≠ .sort ∨ r.cage.state = .absent :=
  ⟨attributed _ 21 ⟨21, _⟩ (by decide), by decide, rfl, (by intro r h; cases h)⟩

/-- Bag 3 DIVERTING behind bag 5, which was fired before it; the sort hold set. -/
def missing (d : Deadline) : State :=
  { held base with
    bags := [(3, some { diverting (some owned1) (.sort 4) with divert := some ⟨4, 12023, 580, d⟩ }),
             (5, some { diverting none (.sort 4) with divert := some ⟨4, 12023, 580, .position 12950⟩ })]
    queues := [(4, [{ bag := 3, rank := some 1 }, { bag := 5, rank := some 2 }])] }

theorem witness_MissedDivertReturnsToLoop :
    (∀ b d, bagAt (missing (.position 12200)) 3 = some b → b.state = .diverting → b.divert = some d →
      (∀ p e, d.deadline = .position p → b.edge = some e → e < p) ∧ ∀ n, d.deadline = .count n → 0 < n) ∧
    bagAt (missing (.position 12100)) 3 =
      some { diverting (some owned1) (.sort 4) with divert := some ⟨4, 12023, 580, .position 12100⟩ } ∧
    (missing (.count 0)).mgmt.sortHold = true ∧
    queueAt (missing (.count 0)) 4 = [] ++ { bag := 3, rank := some 1 } :: [{ bag := 5, rank := some 2 }] ∧
    ∀ e ∈ ([] ++ [{ bag := 5, rank := some 2 }] : List QEntry), e.bag ≠ 3 := by
  refine ⟨?_, rfl, rfl, rfl, by decide⟩
  intro b d hb _ hd
  cases hb
  cases hd
  refine ⟨?_, ?_⟩
  · intro p e hp he
    cases hp
    cases he
    decide
  · intro n hn
    cases hn

theorem cage25 (r : Chute) : Attributed (held (withChute r base)) 25 (.cage 4) :=
  attributed _ 25 ⟨25, .cage 4⟩ ⟨rfl, rfl, by decide, by show (25 : Byte).toNat ≠ 9; decide, rfl, rfl⟩

theorem witness_CagePresentAndRemoved :
    Attributed (held (withChute (chute openCage1) base)) 25 (.cage 4) ∧
    chuteAt (held (withChute (chute openCage1) base)) 4 = some (chute openCage1) ∧
    (∀ i b, bagAt (held (withChute (chute openCage1) base)) i = some b → b.state ≠ .armed) ∧
    (chute absentCage).cage.state = .absent ∧ (chute openCage1).cage.state ≠ .absent ∧
    (∀ r, chuteAt (held (withChute (roleChute .stray) base)) 4 = some r → r.role ≠ .sort) := by
  refine ⟨cage25 _, rfl, (by intro i b h; cases h), rfl, by decide, ?_⟩
  intro r h
  cases h
  decide

theorem witness_CagePresentAndRemoved_armed :
    Attributed armed 25 (.cage 4) ∧ chuteAt armed 4 = some (chute openCage1) ∧ openCage1.state ≠ .absent ∧ TablesWf armed ∧
    3 ∈ armedAt armed 4 ∧ bagAt armed 3 = some armedBag ∧ armedBag.divert.isSome = true :=
  ⟨attributed _ 25 ⟨25, .cage 4⟩ (by decide), rfl, by decide, armed_tables, by decide, rfl, rfl⟩

/-- A FULL cage holding n codes. -/
def fullCage (n : Nat) : Cage := { openCage1 with state := .full, sensor := true, cause := .sensor, loaded := List.replicate n code1 }

theorem witness_CageFullOnAndOff :
    Attributed armed 25 (.cage 4) ∧ chuteAt armed 4 = some (chute openCage1) ∧ TablesWf armed ∧
    openCage1.state = .opened ∧ 3 ∈ armedAt armed 4 ∧
    (fullCage 2).loaded.length < (chute (fullCage 2)).capacity ∧ (chute (fullCage 3)).capacity ≤ (fullCage 3).loaded.length :=
  ⟨attributed _ 25 ⟨25, .cage 4⟩ (by decide), rfl, armed_tables, rfl, by decide, by decide, by decide⟩

/-- The part with chute 4 loaded and the sort hold set takes requests. -/
theorem chute_takes (r : Chute) : Takes (held (withChute r base)) 0 := takes _ ⟨rfl, rfl, rfl, rfl⟩

theorem witness_PinAndUnpinChute :
    31 < (32 : Byte).toNat ∧ 61 < (62 : Byte).toNat ∧ (∀ r, chuteAt base 4 = some r → r.role ≠ .sort) ∧
    chuteAt (held (withChute (chute (fullCage 1)) base)) 4 = some (chute (fullCage 1)) ∧
    (chute (fullCage 1)).cls ≠ some (5 : Byte).toNat ∧ (chute (fullCage 1)).cage.loaded ≠ [] ∧
    (chute openCage1).cage.loaded = [] ∧ committed (held (withChute (chute openCage1) base)) 4 = 0 ∧
    { chute openCage1 with mode := .pooled }.mode = .pooled ∧
    TablesWf (held (withChute { chute openCage1 with mode := .pooled } base)) :=
  ⟨by decide, by decide, (by intro r h; cases h), rfl, by decide, by decide, rfl, rfl, rfl, tables _ (by decide +kernel)⟩

/-- The part with a pooled chute, its diverter in AUTO, and bag 3 ROUTED to class 4 short of it. -/
def pinnable : State :=
  { armed with
    chutes := [(4, some { chute openCage1 with mode := .pooled, cls := none })], queues := [],
    bags := [(3, some { bag .routed 11200 with len := some 600, target := some (.sort 4) })] }

theorem witness_OffersArmTheWaitingBag :
    Takes pinnable 0 ∧ chuteAt pinnable 4 = some { chute openCage1 with mode := .pooled, cls := none } ∧
    (playerAt pinnable 7).mode = .auto ∧ pinnable.mgmt.sortHold = false ∧ 1 ≤ (chute openCage1).capacity ∧
    11200 < firePos 12000 600 (leadOf pinnable.tracker.speed 145) ∧
    500 ≤ firePos 12000 600 (leadOf pinnable.tracker.speed 145) - 11200 :=
  ⟨takes _ (by decide), rfl, rfl, rfl, by decide, by decide, by decide⟩

/-- Two chutes, the diverters of both in AUTO. -/
def twoChutes (r1 r2 : Chute) (s : State) : State :=
  { s with
    chutes := [(4, some r1), (6, some { r2 with diverter := 9, pos := 14000 })]
    players := { s.players with players := [(7, { resetPlayer with mode := .auto }), (9, { resetPlayer with mode := .auto })] } }

theorem witness_OffersArmTheWaitingBag_scan :
    let r2 := { chute openCage1 with mode := .pooled, cls := none }
    let s := twoChutes (chute openCage1) r2 (sailed cabin1 (one scanned base))
    Attributed s 22 (.scanner 0) ∧ s.bags = [(3, some scanned)] ∧ scanDistance cfg 600 0 scanned = some 100 ∧
    sailingLookup s code1 = some 0 ∧ cabinLookup s 0 code1 = some (0, cabin1) ∧ routeTarget s 0 code1 cabin1 = .sort 4 ∧
    (playerAt s 7).mode = .auto ∧ (playerAt s 9).mode = .auto ∧
    700 < firePos 12000 500 (leadOf s.tracker.speed 145) :=
  ⟨attributed _ 22 ⟨22, _⟩ (by decide +kernel), rfl, by decide +kernel⟩

theorem witness_OffersArmTheWaitingBag_hold :
    let s := twoChutes (roleChute .stray) (roleChute .overflow) (one routed1 base)
    Attributed s 24 .screening ∧ code1 ∉ s.holds ∧ s.holds.length < 32 ∧ s.bags = [(3, some routed1)] ∧
    routed1.target = some (.sort 4) ∧ routed1.owned = some owned1 ∧ owned1.code = code1 ∧ s.strays.entries.length < 64 ∧
    5000 < firePos 12000 500 (leadOf s.tracker.speed 145) :=
  ⟨attributed _ 24 ⟨24, .screening⟩ (by decide +kernel), by decide +kernel⟩

/-- The part with player 7 in a mode, playing or not. -/
def playing (m : PlayerMode) (p : Option Play) : State :=
  { held base with players :=
    { profiles := [(2, [{ level := 200, ramp := 60, hold := .time 40, outs := 0 }, { level := 90, ramp := 20, hold := .window, outs := 0 },
        { level := 90, ramp := 20, hold := .trigger 5 100, outs := 0 }])]
      players := [(7, { resetPlayer with node := some 40, actuator := 1, mode := m, play := p })], lines := [] } }

theorem playing_takes (m : PlayerMode) (p : Option Play) : Takes (playing m p) 0 := takes _ ⟨rfl, rfl, rfl, rfl⟩

theorem witness_PlayerRequestsChangeMode :
    39 < (40 : Byte).toNat ∧ (playerAt base 7).node = none ∧ (playerAt (playing .auto none) 7).node = some 40 ∧
    (playerAt (playing .off none) 7).mode = .off ∧ (playerAt (playing .auto none) 7).mode = .auto ∧
    (playerAt (playing .direct none) 7).mode = .direct ∧
    ∀ i b, bagAt (playing .auto none) i = some b → b.state ≠ .armed :=
  ⟨by decide, rfl, rfl, rfl, rfl, rfl, (by intro i b h; cases h)⟩

/-- A play of profile 2 in a segment and a phase. -/
def play (seg : Nat) (ph : Phase) : Play := { fire := ⟨2, 680, 40⟩, seg := seg, phase := ph }

theorem witness_PlayerWaitsEnd :
    (playerAt (playing .auto (some (play 0 (.ramp 60)))) 7).play.map (·.phase) = some (.ramp 60) ∧
    (profileAt (playing .auto (some (play 0 (.ramp 60)))) 2)[0]? =
      some { level := 200, ramp := 60, hold := .time 40, outs := 0 } ∧
    (profileAt (playing .auto (some (play 1 (.ramp 20)))) 2)[1]? =
      some { level := 90, ramp := 20, hold := .window, outs := 0 } ∧
    (profileAt (playing .auto (some (play 2 (.ramp 20)))) 2)[2]? =
      some { level := 90, ramp := 20, hold := .trigger 5 100, outs := 0 } ∧
    lineAt (playing .auto (some (play 2 (.ramp 20)))) 5 = none ∧
    (profileAt (playing .auto (some (play 2 (.trigger 5 100)))) 2)[3]? = none := by decide

/-- Player 7 playing profile 2, player 9 waiting on line 3 or not. -/
def twoPlayers (g : Segment) (y : Play) (x : Option Fire) (z : Option Play) (ls : Table (Option Nat)) : State :=
  let a : Player := { resetPlayer with node := some 40, mode := .auto, play := some y, pending := x }
  let b : Player := { resetPlayer with node := some 41, mode := .auto, play := z }
  { base with players :=
    { profiles := [(2, [{ level := 1, ramp := 1, hold := .time 40, outs := 0 }, g]),
                   (5, [{ level := 1, ramp := 1, hold := .trigger 3 100, outs := 0 }])]
      players := [(7, a), (9, b)], lines := ls } }

theorem witness_SegmentStartsRaiseLines :
    let waits : Play := { fire := ⟨5, 680, 40⟩, seg := 0, phase := .trigger 3 100 }
    let raise : Segment := { level := 90, ramp := 10, hold := .window, outs := 1#8 <<< 3 }
    let s := twoPlayers raise (play 0 (.time 40)) none (some waits) []
    (playerAt s 7).node = some 40 ∧ (playerAt s 7).play = some (play 0 (.time 40)) ∧
    (profileAt s 2)[0 + 1]? = some raise ∧ 9 < 40 ∧ waitsOn s 3 9 = true ∧ (∀ j < 9, waitsOn s 3 j = false) ∧
    (playerAt s 9).play = some waits ∧ (profileAt s 5)[0 + 1]? = none ∧
    (∀ l < 8, ∀ k < 40, waitsOn (twoPlayers raise (play 0 (.time 40)) none none [(3, some 9)]) l k = false) ∧
    (profileAt s 2)[1 + 1]? = none ∧
    (playerAt (twoPlayers raise (play 1 (.time 40)) (some ⟨5, 1, 1⟩) none [(1, some 7)]) 7).pending = some ⟨5, 1, 1⟩ ∧
    lineAt (twoPlayers { raise with hold := .trigger 2 50 } (play 1 (.ramp 5)) none none [(2, some 9)]) 2 = some 9 := by
  decide +kernel

theorem witness_UndefinedRequestsAreRefused :
    badKind 15 [1] = true ∧ badKind 12 [8, 1] = true ∧
    parseFrame (frameBytes (drive1 9 0 0x30 [7, 15, 1])) = some (drive1 base.line.nodeAddr 0 0x30 [7, 15, 1]) ∧
    parseFrame (frameBytes (drive1 9 0 0x30 [7, 5, 0, 4, 1])) = some (drive1 base.line.nodeAddr 0 0x30 [7, 5, 0, 4, 1]) ∧
    parseFrame (frameBytes (drive1 9 0 0x30 [7, 9, 7, 3, 0])) = some (drive1 base.line.nodeAddr 0 0x30 [7, 9, 7, 3, 0]) ∧
    parseFrame (frameBytes (drive1 9 0 0x30 [7, 12, 3])) = some (drive1 base.line.nodeAddr 0 0x30 [7, 12, 3]) ∧
    parseFrame (frameBytes (drive1 9 0 0x30 [7, 12])) = some (drive1 base.line.nodeAddr 0 0x30 [7, 12]) ∧
    parseFrame (frameBytes (drive1 9 0 0x30 [7, 2, 0])) = some (drive1 base.line.nodeAddr 0 0x30 [7, 2, 0]) := by
  decide +kernel

theorem witness_SortHoldDisarmsAndReleases :
    Takes (held base) 0 ∧ (held base).mgmt.sortHold = true ∧ base.mgmt.sortHold = false ∧
    (∀ i b, bagAt base i = some b → b.state ≠ .armed) ∧ Takes armed 0 ∧ TablesWf armed ∧ 3 ∈ armedAt armed 4 ∧
    bagAt armed 3 = some armedBag ∧ (held base).bags = [] ∧ (held base).gate.slots = [] :=
  ⟨takes _ (by decide), rfl, rfl, (by intro i b h; cases h), takes _ (by decide), armed_tables, by decide, rfl, rfl, rfl⟩

/-- The part with the sort hold set, chute 4 loaded, and bag 3 ROUTED to its class short of it. -/
def releasable : State :=
  held { pinnable with chutes := [(4, some (chute openCage1))] }

/-- The part with the sort hold set and a request waiting at station 0. -/
def requested : State := held { base with gate := { base.gate with slots := [(0, some .normal)] } }

theorem witness_SortHoldDisarmsAndReleases_all :
    Takes orderly 0 ∧ orderly.mgmt.sortHold = false ∧ TablesWf orderly ∧ Orderly orderly ∧ Takes requested 0 ∧
    requested.gate.slots = [(0, some .normal)] ∧ stationAddr requested 0 = some (23, 0) ∧ cfg.vRun ≤ requested.tracker.speed ∧
    requested.gate.inFlight = none ∧ 1 ≤ cfg.loopLimit ∧ Takes releasable 0 ∧
    releasable.chutes = [(4, some (chute openCage1))] ∧ openCage1.loaded.length < (chute openCage1).capacity ∧
    (playerAt releasable 7).mode = .auto ∧ 11200 < firePos 12000 600 (leadOf releasable.tracker.speed 145) ∧
    500 ≤ firePos 12000 600 (leadOf releasable.tracker.speed 145) - 11200 :=
  ⟨takes _ (by decide +kernel), rfl, orderly_tables, orderly_orderly, takes _ (by decide +kernel), rfl, by decide, by decide, rfl,
    by decide, takes _ (by decide +kernel), rfl, by decide, rfl, by decide, by decide⟩

theorem witness_SortHoldDisarmsAndReleases_pooled :
    Takes (held pinnable) 0 ∧ (held pinnable).chutes = [(4, some { chute openCage1 with mode := .pooled, cls := none })] ∧
    openCage1.loaded = [] ∧ 0 < (chute openCage1).capacity := ⟨takes _ (by decide +kernel), rfl, rfl, by decide⟩

/-- The part with both sticky flags set, a bag and counts. -/
def counted : State :=
  { one routed1 base with
    line := { base.line with controlOverrun := true }
    mgmt := { base.mgmt with reportLost := true, counters := { zeroCounters with inducted := 65535, ghosts := 2 } } }

theorem witness_SummaryCountersAndSnapshot : Takes counted 0 := takes _ (by decide)

/-- A part to be queried: a cabin, a bag ARMED at a chute with a cage, a stray entry, a hold. -/
def queried1 : State :=
  { sailed cabin1 armed with
    holds := [code1, 5]
    strays := { entries := [{ slot := 117, reason := .noRead, codes := [code1], len := 514, keyed := none }], keyedOrder := [], nextSlot := 118 } }

theorem queried_takes : Takes queried1 0 := takes _ (by decide)

theorem witness_QueriesAnswerAndChangeNothing :
    Takes queried1 0 ∧ queried1.sailing0.locked = false ∧ bankFind queried1.sailing0.active (1 : BitVec 16).toNat = none ∧
    bankFind queried1.sailing0.active (10234 : BitVec 16).toNat = some (0, cabin1) ∧
    bagAt queried1 (3 : BitVec 16).toNat = some armedBag ∧ bagAt queried1 (4 : BitVec 16).toNat = none ∧
    chuteAt queried1 (4 : Byte).toNat = some (chute openCage1) ∧ chuteAt queried1 (5 : Byte).toNat = none ∧
    openCage1.state ≠ .absent ∧ queried1.strays.entries.length ≤ (1 : Byte).toNat ∧
    ({ queried1 with sailing0 := { queried1.sailing0 with locked := true } } : State).sailing0.locked = true ∧
    (chute absentCage).role = .sort ∧ absentCage.state = .absent ∧ absentCage.loaded = [] ∧
    queried1.closedCages[(0 : Byte).toNat]? = none ∧
    ({ queried1 with closedCages := [⟨4, 301, some 4, [code1], 0, .count⟩] } : State).closedCages[(0 : Byte).toNat]? =
      some ⟨4, 301, some 4, [code1], 0, .count⟩ :=
  ⟨queried_takes, rfl, by decide, by decide, rfl, rfl, rfl, rfl, by decide, by decide, rfl, rfl, rfl, rfl, rfl, rfl⟩

/-- The worked image of the manual's checksum case: three cabins of sailing 0x41, two map entries. -/
def image : Bank :=
  { code := 0x41, count := 3,
    recs := [(0, { cabin1 with number := 10234, expected := 2 }), (1, { cabin1 with number := 10236, expected := 3 }),
             (2, { cabin1 with number := 11002, deck := 11, zone := 4, expected := 1, override := some 5 })],
    map := [(74, some 4), (83, some 5)] }

/-- Sailing 0 with that image in STAGING, and an ACTIVE bank; a walk or none. -/
def staged (b : Bank) (w : Option Walk) (s : State) : State :=
  { s with sailing0 := { (sailed cabinSeen s).sailing0 with staging := b, walk := w } }

theorem staged_takes (b : Bank) (w : Option Walk) : Takes (staged b w base) 0 := takes _ ⟨rfl, rfl, rfl, rfl⟩

theorem witness_LoadChecksThenWrites :
    Takes base 0 ∧ (0 : Byte).toNat < 2 ∧
    (nat16 0 5 < 4096 ∧ 1 ≤ nat16 0x27 0xFA ∧ nat16 0x27 0xFA ≤ 65534 ∧ 1 ≤ (10 : Byte).toNat ∧ (10 : Byte).toNat ≤ 20 ∧
      1 ≤ (3 : Byte).toNat ∧ (3 : Byte).toNat ≤ 8 ∧ ((0xFF : Byte).toNat ≤ 61 ∨ (0xFF : Byte) = 0xFF)) ∧
    ¬nat16 0x10 0 < 4096 ∧ nat16 0 159 < 160 ∧ ¬nat16 0 160 < 160 ∧ nat16 0 0 = 0 ∧ nat16 0x10 0 ≤ 4096 ∧
    (staged image (some ⟨none, true, 0, [], 1⟩) base).sailing0.walk.isSome = true :=
  ⟨base_takes, by decide, by decide, by decide, by decide, by decide, by decide, by decide, rfl⟩

/-- The bytes of three CABIN records, and of headers that R18 refuses: a table 9, a sailing 2, a count its records do not
fill. -/
def cabinRecords : List (List Byte) := [[0x27, 0xFA, 10, 3, 0xF2, 0xFF], [0, 9, 1, 1, 0, 7], [0, 9, 20, 8, 3, 61]]

theorem witness_LoadChecksThenWrites_several :
    (5 : Byte) ≠ 0 ∧ 4 < (5 : Byte).toNat ∧ [2, 0, 0, 0, 1].length < 6 * (1 : Byte).toNat ∧
    8 < byteAt [9, 0, 0, 0, 0, 0] 0 ∧ (byteAt [3, 2, 0, 0, 0, 0] 0 ≤ 3 ∧ 1 < byteAt [3, 2, 0, 0, 0, 0] 1) ∧
    [4, 4].length ≠ word [2, 0, 0, 0, 0, 1] 4 * 1 ∧
    nat16 0 3 = cabinRecords.length ∧ nat16 0x0F 0xFD + cabinRecords.length ≤ 4096 ∧
    ¬nat16 0x0F 0xFE + cabinRecords.length ≤ 4096 ∧
    (∀ r ∈ cabinRecords, r.length = 6 ∧ 1 ≤ word r 0 ∧ word r 0 ≤ 65534 ∧ 1 ≤ byteAt r 2 ∧ byteAt r 2 ≤ 20 ∧ 1 ≤ byteAt r 3 ∧
      byteAt r 3 ≤ 8 ∧ (byteAt r 5 ≤ 61 ∨ byteAt r 5 = 255)) ∧
    nat16 0 157 + [(61 : Byte), 0, 0xFF].length ≤ 160 ∧ (∀ m ∈ [(61 : Byte), 0, 0xFF], m.toNat ≤ 61 ∨ m = 0xFF) ∧
    ¬(62 : Byte).toNat ≤ 61 := by decide

theorem witness_LoadChecksThenWrites_two :
    (nat16 0 159 < 160 ∧ ((4 : Byte).toNat ≤ 61 ∨ (4 : Byte) = 0xFF)) ∧
    (1 ≤ (66 : Byte).toNat ∧ (66 : Byte).toNat ≤ 254 ∧ nat16 0x10 0 ≤ 4096) ∧ ¬(255 : Byte).toNat ≤ 254 ∧
    base.sailing1.walk = none := by decide

/-- Records of the other tables: a LOOP record of cfg with the lap 40000, a CHUTE record, a PROFILE record. -/
def loopBytes : List Byte :=
  be16 40000 ++ be16 100 ++ be16 10000 ++ be16 20000 ++ List.replicate 10 0xFF ++ be16 600 ++ be16 65535 ++ [60] ++ be16 400 ++
    [2] ++ be16 480 ++ be16 300 ++ be16 200 ++ be16 1200 ++ be16 2000 ++ be16 30 ++ be16 300 ++ be16 50

def chuteBytes : List Byte :=
  [1, 0, 4] ++ be16 12000 ++ [7, 0xFF, 2] ++ be16 145 ++ [40] ++ be16 500 ++ be16 900 ++ [3, 25]

def profileBytes : List Byte := [1, 200, 6, 0x25] ++ be16 100 ++ [0x0A] ++ List.replicate 42 0

/-- The reader and the two eyes of cfg stand after the entry and before the lap mark, in the order of the range row. -/
theorem cfg_positions (p : Nat) (h : some p ∈ cfg.reader0 :: cfg.reader1 :: cfg.eyes) :
    cfg.entryPos < p ∧ p < cfg.len := by
  have : p ∈ [600, 10000, 20000] := by simpa [cfg] using h
  clear h
  revert p
  decide

theorem loopBytes_inRange : loopRecord loopBytes = cfg ∧ LoopInRange cfg := by
  refine ⟨by decide +kernel, by decide, by decide, cfg_positions, ?_⟩
  decide

theorem witness_LoadsOfOtherTables :
    loopBytes.length = 42 ∧ LoopInRange (loopRecord loopBytes) ∧ chuteBytes.length = 17 ∧ ChuteInRange chuteBytes ∧
    chuteRecord chuteBytes = chute absentCage ∧ profileBytes.length = 49 ∧ byteAt profileBytes 0 ≤ 8 ∧
    (∀ j < byteAt profileBytes 0, SegmentInRange profileBytes j) ∧ (0 : Byte).toNat < 16 ∧
    (∀ p < 40, (playerAt base p).play.map (·.fire.profile) ≠ some 0) ∧
    (∀ x ∈ base.nodes, x.1 < 64 ∧ ∀ e, x.2 = some e → NodeOk base.line.nodeAddr e) ∧
    NodesDistinct (tablePut none base.nodes 63 (some ⟨50, .screening⟩)) ∧
    ¬NodesDistinct (tablePut none base.nodes 63 (some ⟨50, .drive⟩)) ∧
    ((40 : Byte).toNat ≤ 126 ∧ (40 : Byte).toNat ≠ base.line.nodeAddr) ∧ (playerAt base 39).mode = .off ∧
    (playerAt (playing .auto none) 7).mode ≠ .off := by
  refine ⟨by decide +kernel, by rw [loopBytes_inRange.1]; exact loopBytes_inRange.2, by decide +kernel, ?_, by decide +kernel,
    by decide +kernel, by decide +kernel, ?_, by decide, by decide +kernel, nodes_ok, ?_, ?_, by decide, by decide, by decide⟩
  · unfold ChuteInRange
    decide +kernel
  · unfold SegmentInRange
    decide +kernel
  · unfold NodesDistinct
    decide +kernel
  · unfold NodesDistinct
    decide +kernel

theorem witness_CommitChecksThenWalks :
    bankChecksum image = 0xFFFF5CB7 ∧ 2 ≤ (2 : Byte).toNat ∧
    (∀ p, p + 1 < image.count → (cabinAt image p).number < (cabinAt image (p + 1)).number) ∧
    ((∀ p < image.count, 1 ≤ (cabinAt image p).deck ∧ (cabinAt image p).deck ≤ 20 ∧ 1 ≤ (cabinAt image p).zone ∧
        (cabinAt image p).zone ≤ 8 ∧ ∀ c, (cabinAt image p).override = some c → c ≤ 61) ∧
      (∀ e < 160, ∀ c, tableGet none image.map e = some c → c ≤ 61) ∧ image.count ≤ 4096) ∧
    (1 ≤ image.code ∧ image.code ≤ 254 ∧ base.sailing1.state = .empty ∧ base.sailing1.walk = none) ∧
    (∃ p, p + 1 < 4 ∧ ¬(cabinAt { image with count := 4 } p).number < (cabinAt { image with count := 4 } (p + 1)).number) ∧
    ¬1 ≤ (cabinAt { image with count := 1, recs := [] } 0).deck ∧ ¬1 ≤ emptyBank.code := by
  refine ⟨by decide +kernel, by decide, ?_, ⟨?_, ?_, by decide⟩, by decide, ⟨2, by decide, by decide⟩, by decide, by decide⟩
  · have h : ∀ p < 2, (cabinAt image p).number < (cabinAt image (p + 1)).number := by decide
    intro p hp
    exact h p (Nat.lt_of_succ_lt_succ hp)
  · have h : ∀ p < 3, 1 ≤ (cabinAt image p).deck ∧ (cabinAt image p).deck ≤ 20 ∧ 1 ≤ (cabinAt image p).zone ∧
        (cabinAt image p).zone ≤ 8 ∧ classOk (cabinAt image p).override = true := by decide
    intro p hp
    obtain ⟨h1, h2, h3, h4, h5⟩ := h p hp
    refine ⟨h1, h2, h3, h4, ?_⟩
    intro c hc
    rw [hc] at h5
    simpa [classOk] using h5
  · have h : ∀ e < 160, classOk (tableGet none image.map e) = true := by decide +kernel
    intro e he c hc
    have := h e he
    rw [hc] at this
    simpa [classOk] using this

/-- The part walking the image: a walk at a position, carrying or not, its COMMIT in slot 1. -/
def walking (carry : Bool) (next : Nat) (fresh : List Nat) (s : State) : State :=
  { staged image (some ⟨none, carry, next, fresh, 1⟩) s with line := { s.line with slots := [(1, .executing 9 2)] } }

theorem witness_CommitStepsAndSwaps :
    (sailingAt base 0).walk = none ∧ (sailingAt (walking true 0 [] base) 0).walk = some ⟨none, true, 0, [], 1⟩ ∧
    0 < (sailingAt (walking true 0 [] base) 0).staging.count ∧
    bankFind (sailingAt (walking true 0 [] base) 0).active 10234 = some (0, cabinSeen) ∧
    bankFind (sailingAt (walking true 1 [] base) 0).active 10236 = none ∧
    (sailingAt (walking true 3 [1] base) 0).staging.count ≤ 3 ∧
    tableGet Slot.free (walking true 3 [1] base).line.slots 1 = .executing 9 2 ∧
    (held (walking true 3 [] (one { routed1 with owned := some { owned1 with code := 0x4127F61E } } base))).bags =
      [(3, some { routed1 with owned := some { owned1 with code := 0x4127F61E } })] ∧
    bankFind image (cabinField 0x4127F61E) = none := by decide

/-- The part with sailing 0 in a state. -/
def sailingIn (st : SailingState) (ds : DeckSet) (s : State) : State :=
  { s with sailing0 := { (sailed cabin1 s).sailing0 with state := st, closedDecks := ds } }

theorem sailing_takes (st : SailingState) (ds : DeckSet) : Takes (sailingIn st ds base) 0 := takes _ ⟨rfl, rfl, rfl, rfl⟩

theorem witness_DiscardEraseAndLock :
    2 ≤ (2 : Byte).toNat ∧ (staged image (some ⟨none, true, 0, [], 1⟩) base).sailing0.walk.isSome = true ∧
    (sailingAt (staged image none base) 0).walk = none ∧ (sailingIn .opened 0 base).sailing0.state = .opened ∧
    (∃ i b, (i, some b) ∈ (sailingIn .closed 0 (one routed1 base)).bags ∧ b.owned.map (·.sailing) = some 0) ∧
    (sailingIn .closed 0 base).sailing0.state ≠ .opened ∧
    ¬((∃ i b, (i, some b) ∈ (sailingIn .closed 0 base).bags ∧ b.owned.map (·.sailing) = some 0) ∨
      ∃ e ∈ (sailingIn .closed 0 base).strays.entries, e.keyed.map (·.sailing) = some 0) := by
  refine ⟨by decide, rfl, rfl, rfl, ⟨3, routed1, by decide, rfl⟩, by decide, ?_⟩
  rintro (⟨i, b, h, _⟩ | ⟨e, h, _⟩) <;> cases h

theorem witness_SailingActionsCloseAndOpen :
    (sailingIn .empty 0 base).sailing0.state = .empty ∧ (sailingIn .closed 0xFFFFF base).sailing0.state = .closed ∧
    (sailingIn .opened 0x200 base).sailing0.state = .opened ∧
    hasDeck (sailingIn .opened 0x200 base).sailing0.closedDecks (10 : Byte).toNat = true ∧
    hasDeck (sailingIn .opened 0x800 base).sailing0.closedDecks (10 : Byte).toNat = false ∧
    (held (sailingIn .opened 0x800 (one routed1 base))).bags = [(3, some routed1)] ∧
    routed1.owned = some owned1 ∧ (10 : Byte).toNat = owned1.deck := by decide

/-- The part with a stray entry at slot 117. -/
def bench (k : Option Owned) (s : State) : State :=
  { s with strays :=
    { entries := [{ slot := 115, reason := .held, codes := [], len := 500, keyed := none },
        { slot := 117, reason := .noRead, codes := [], len := 514, keyed := k }]
      keyedOrder := (k.map fun _ => 117).toList, nextSlot := 118 } }

theorem bench_station (k : Option Owned) (x : Cabin) :
    Attributed (held (sailed x (bench k base))) 23 (.station [some ⟨0, .normal⟩, none, some ⟨3, .encode⟩, none]) :=
  attributed _ 23 ⟨23, _⟩ ⟨rfl, rfl, by decide, by show (23 : Byte).toNat ≠ 9; decide, rfl, rfl⟩

theorem witness_KeyinTestsInOrder :
    (∃ d : StationId, some d ∈ [some (⟨0, .normal⟩ : StationId), none, some ⟨3, .encode⟩, none] ∧ d.type = .encode) ∧
    (∀ e ∈ (bench none base).strays.entries, e.slot ≠ (118 : BitVec 16).toNat) ∧
    (bench none base).strays.entries = [{ slot := 115, reason := .held, codes := [], len := 500, keyed := none }] ++
      { slot := 117, reason := .noRead, codes := [], len := 514, keyed := none } :: [] ∧
    wellFormedCode code1 = true ∧ sailingLookup (bench none base) code1 = none ∧
    sailingLookup (sailed cabin1 (bench none base)) code1 = some 0 ∧
    cabinLookup (sailed cabin1 (bench none base)) 0 code1 = some (0, cabin1) ∧
    cabinLookup (sailed { cabin1 with number := 5 } (bench none base)) 0 code1 = none ∧
    hasSerial cabin1.seen (serialField code1) = false ∧ hasSerial cabinSeen.seen (serialField code1) = true ∧
    (bench (some owned1) base).strays.entries = [{ slot := 115, reason := .held, codes := [], len := 500, keyed := none }] ++
      { slot := 117, reason := .noRead, codes := [], len := 514, keyed := some owned1 } :: [] :=
  ⟨⟨⟨3, .encode⟩, by decide, rfl⟩, by decide, rfl, by decide, by decide, by decide, by decide, by decide, by decide, by decide,
    rfl⟩

/-- A RESTART in flight in slot 2, its sweep at a place. -/
def sweeping (w : Option (Nat × Nat)) : State :=
  { sailed { cabin1 with seen := 6, loaded := 2 } base with
    line := { base.line with slots := [(2, .executing 8 14)] }
    mgmt := { base.mgmt with restart := some ⟨2, w⟩ } }

theorem witness_RestartSweepsAndCompletes :
    Takes armed 0 ∧ TablesWf armed ∧ armed.sailing0.active.count = 0 ∧ armed.sailing1.active.count = 0 ∧
    (∀ w, armed.sailing0.walk = some w ∨ armed.sailing1.walk = some w → w.slot ≠ 0) ∧
    0 < (sailed cabin1 base).sailing0.active.count ∧ base.mgmt.restart = none ∧
    (sweeping none).mgmt.restart = some { slot := 2, sweep := none } ∧
    tableGet Slot.free (sweeping none).line.slots 2 = .executing 8 14 ∧
    (sweeping (some (0, 0))).mgmt.restart = some { slot := 2, sweep := some (0, 0) } := by
  refine ⟨takes _ (by decide), armed_tables, rfl, rfl, ?_, by decide, rfl, rfl, rfl, rfl⟩
  rintro w (h | h) <;> cases h

/-- The part sending a transit frame, sailing 0 and sailing 1 walking under the slots 2 and 1. -/
def bothWalking : State :=
  { base with
    line := { base.line with slots := [(1, .executing 9 2), (2, .executing 8 2)], sending := some ⟨.transit, [1]⟩, runCount := 5 }
    sailing0 := { emptySailing with walk := some ⟨none, false, 0, [], 2⟩ }
    sailing1 := { emptySailing with walk := some ⟨none, false, 0, [], 1⟩ } }

theorem witness_RestartSweepsAndCompletes_walks :
    Takes bothWalking 0 ∧ TablesWf bothWalking ∧ bothWalking.line.sending.isSome = true ∧
    (∀ w ∈ bothWalking.sailing0.walk.toList ++ bothWalking.sailing1.walk.toList,
      tableGet Slot.free bothWalking.line.slots w.slot ≠ .free) ∧ driveAddr bothWalking = some 26 :=
  ⟨takes _ (by decide +kernel), tables _ (by decide +kernel), rfl, by decide +kernel⟩

/-! ### Worked figures of the manual -/

/-- Section 1.2: the check over the bytes 0x31 to 0x39 leaves 0x29B1. -/
theorem test_crc_reference : crc16 [0x31, 0x32, 0x33, 0x34, 0x35, 0x36, 0x37, 0x38, 0x39] = 0x29B1 := by decide +kernel

/-- Section 11.5: a STRAYED report of four codes fills the 29 bytes that no payload exceeds. -/
theorem test_strayed_report_fills_payload (d : Disposed) (c n : Nat) (w x y z : TagCode) :
    (reportPayload (.strayed d c n [w, x, y, z])).length = 29 := by
  obtain ⟨i, o, g, r⟩ := d
  cases o <;> rcases g with _ | k | k | k <;> rfl

/-- R17's three codes. -/
theorem test_tag_codes :
    wellFormedCode 0x4127FA29 = true ∧ wellFormedCode 0x4127FA28 = false ∧ wellFormedCode 0xFF27FA22 = false ∧
    makeCode 0x41 10234 2 = 0x4127FA29 := by decide

/-- Section 2.4: V from a standing belt at 4 counts a sample, V from 100 on the same belt, and one reverse sample. -/
theorem test_speed_estimate :
    ([4, 4, 4, 4, 4, 4, 4, 4, 4, 4, 4, 4, 4].foldl nextSpeed 0) = 61 ∧ nextSpeed 43 4 = 48 ∧ nextSpeed 57 4 = 58 ∧
    nextSpeed 100 4 = 91 ∧ nextSpeed 91 4 = 84 ∧ nextSpeed 64 4 = 64 ∧ nextSpeed 61 0 = 45 := by decide +kernel

/-- R43's span on a loop of 40000: positions 39700 to 39999 and 0 to 1400. -/
theorem test_merge_span :
    bodyInSpan cfg 39700 1 = true ∧ bodyInSpan cfg 39699 1 = false ∧ bodyInSpan cfg 1400 1 = true ∧
    bodyInSpan cfg 1401 1 = false ∧ bodyInSpan cfg 1900 500 = false ∧ bodyInSpan cfg 1899 500 = true := by decide

/-- Section 8.2's worked chute: lead 277, F 12023, W 680. -/
theorem test_lead_fire_window :
    leadOf 61 145 = 277 ∧ firePos 12000 600 277 = 12023 ∧ windowOf 600 40 = 680 ∧ leadOf 16368 1000 = 4095 ∧
    leadOf 0 1000 = 0 ∧ leadOf 64 1 = 2 ∧ leadOf 65 1 = 3 := by decide

/-- Section 1.8's payloads: a TRACK delta is signed, a DRIVE byte above 1 is undefined, a SCAN has the length its count
announces, and the cage id of FULL_ON is ignored. -/
theorem test_payloads :
    parseField .track [9, 0xFF, 0xFC] = some (.track 9 (-4)) ∧ parseField .drive [2] = none ∧
    parseField .scan [7, 2, 1, 2, 3, 4] = none ∧ parseField .scan [7, 1, 1, 2, 3, 4] = some (.scan 7 [0x01020304]) ∧
    parseField .cage [1, 9, 9] = some (.cage .fullOn) := by decide

end Sys2Proof.Tests
end

section
/-! The sort line: a bad frame at LINE IN (R2) and a request that finds no reply slot FREE (R14). -/

namespace Sys2Proof.Machine

/-! ### The tests of a frame (R2) -/

/-- A frame that is read has passed every test of R2. -/
theorem checks_of_parseFrame {bytes : List Byte} {f : RawFrame} (h : parseFrame bytes = some f) :
    6 ≤ bytes.length ∧ (bytes.getD 3 0).toNat ≤ 60 ∧ bytes.length = 6 + (bytes.getD 3 0).toNat ∧
      be16 (crc16 (bytes.take (4 + (bytes.getD 3 0).toNat))).toNat = bytes.drop (4 + (bytes.getD 3 0).toNat) := by
  unfold parseFrame at h
  split at h
  case h_1 d src k n rest =>
    split at h
    case isTrue hc =>
      obtain ⟨hn, hlen, hcrc⟩ := hc
      have hlength : (d :: src :: k :: n :: rest).length = 6 + n.toNat := by simp only [List.length_cons]; omega
      refine ⟨by omega, hn, hlength, ?_⟩
      simpa [Nat.add_comm 4] using hcrc
    case isFalse => cases h
  case h_2 => cases h

/-- Any of the four conditions of R2 makes a frame bad. -/
theorem parseFrame_eq_none {bytes : List Byte}
    (h : bytes.length < 6 ∨ 60 < (bytes.getD 3 0).toNat ∨ bytes.length ≠ 6 + (bytes.getD 3 0).toNat ∨
      be16 (crc16 (bytes.take (4 + (bytes.getD 3 0).toNat))).toNat ≠ bytes.drop (4 + (bytes.getD 3 0).toNat)) :
    parseFrame bytes = none := by
  refine Option.eq_none_iff_forall_ne_some.mpr fun f hf => ?_
  obtain ⟨hmin, hmax, hlen, hcrc⟩ := checks_of_parseFrame hf
  rcases h with hshort | hlong | hother | hcheck
  · omega
  · omega
  · exact hother hlen
  · exact hcheck hcrc

/-- At an on-line part a bad frame raises the line error counter and does nothing else. -/
theorem receiveFrame_bad {s : State} {bytes : List Byte} (ho : onLine s = true) (h : parseFrame bytes = none) :
    receiveFrame bytes s = bump .lineErrors s := by
  simp only [receiveFrame, ho, h, if_true]

/-- Settles O12: none of the four conditions lets the frame be read, and a frame that is not read is only counted. -/
theorem badFrameCounted : Obligations.BadFrameCounted := by
  rintro s bytes ⟨hlow, ho⟩ hbad
  exact gives_event hlow (receiveFrame_bad ho (parseFrame_eq_none hbad))

/-! ### The overflow refusal (R14) -/

/-- A command that stands for a request is the taking of that request under its tag and kind. -/
theorem exec_request {c : Instr} {tag kind : Byte} {args : List Byte} (h : requestOf c = some (tag :: kind :: args)) :
    ∃ work, ∀ s, exec c s = event (takeReq tag kind work) s := by
  cases c with
  | reqBadKind | load | commit | discard | erase | closeDeck | reopenDeck | closeSailing | openSailing | lock | pin
  | unpin | playerOff | playerAuto | playerDirect | sortHold | sortRelease | queryCabin | queryBag | queryChute
  | queryCage | queryStray | queryHold | querySailing | snapshot | restart =>
    cases h
    exact ⟨_, fun _ => rfl⟩
  | _ => cases h

/-- The refusal forwards one RSP to node 0: tag and kind echoed, status BUSY, the summary as it stands, no results. -/
theorem refuseRequest_eq (tag kind : Byte) (s : State) :
    refuseRequest tag kind s = withForwarded
      (frameBytes { dest := 0, src := s.line.nodeAddr, kind := 0x31, payload := [tag, kind, 1, statusSummary s] }) s :=
  pushTransit_eq ..

/-- With no reply slot FREE the work of a request is not begun: an on-line part refuses it. -/
theorem takeReq_noSlot {s : State} (tag kind : Byte) (work : Nat → State → State × Answer) (ho : onLine s = true)
    (hf : freeSlot s.line = none) : takeReq tag kind work s = refuseRequest tag kind s := by
  simp only [takeReq, ho, hf, if_true]

/-- Settles O16: whatever the request asks for, without a FREE slot it comes to the refusal alone. -/
theorem overflowRefusal : Obligations.OverflowRefusal := by
  rintro s c tag kind args ⟨hlow, ho⟩ hreq hfull
  obtain ⟨work, hexec⟩ := exec_request hreq
  rw [hexec s]
  exact gives_event hlow ((takeReq_noSlot tag kind work ho hfull).trans (refuseRequest_eq tag kind s))

end Sys2Proof.Machine
end

section
/-! Stamped events: EYE and SCAN frames that cannot be placed on the loop, being stale or from an absent eye or reader
(R36, R37, R38). -/

namespace Sys2Proof.Machine

/-! ### A stamp that the history does not hold (R36) -/

/-- No history entry carries the sequence number q. -/
def Forgotten (q : Nat) (s : State) : Prop := ∀ h ∈ s.tracker.history, h.seq ≠ q

/-- The entries found under a sequence number are none when no entry carries it. -/
theorem stampEntries_eq_nil {q : Nat} {l : List HistEntry} (h : ∀ e ∈ l, e.seq ≠ q) : stampEntries q l = [] := by
  induction l with
  | nil => rfl
  | cons e r ih =>
    obtain ⟨he, hr⟩ := List.forall_mem_cons.mp h
    simp only [stampEntries, if_neg he, ih hr]

/-- A forgotten stamp reads nothing, and no choice between entries is taken for it. -/
theorem stampOf_forgotten {q : Nat} {s : State} (h : Forgotten q s) : stampOf q s = (none, s) := by
  unfold stampOf
  rw [stampEntries_eq_nil h]
  rfl

/-! ### The EYE frame (R36, R38) -/

/-- Only a loop eye can lack a position. -/
theorem eyeConfigured_of_position {c : LoopCfg} {id : EyeId} (h : ∀ k, id = .loop k → (eyePos c k).isSome = true) :
    eyeConfigured c id = true := by
  cases id with
  | loop k => exact h k rfl
  | entry => rfl
  | chute n => rfl

theorem takeEye_unconfigured {s : State} (id : EyeId) (edge : Edge) (q : Nat) (h : s.tracker.cfg = none) :
    takeEye id edge q s = bump .stale s := by
  simp only [takeEye, h]

theorem takeEye_absent {s : State} {c : LoopCfg} {k : Nat} (edge : Edge) (q : Nat) (hc : s.tracker.cfg = some c)
    (hk : eyePos c k = none) : takeEye (.loop k) edge q s = bump .unknownSources s := by
  simp [takeEye, hc, eyeConfigured, hk]

theorem takeEye_stale {s : State} {c : LoopCfg} {id : EyeId} {q : Nat} (edge : Edge) (hc : s.tracker.cfg = some c)
    (hid : eyeConfigured c id = true) (hq : Forgotten q s) : takeEye id edge q s = bump .stale s := by
  simp only [takeEye, hc, hid, if_true, stampOf_forgotten hq]

/-- An attributed EYE frame whose index is mapped gives what its eye's event comes to. -/
theorem gives_eye {s u : State} {src idx stamp : Byte} {edge : Edge} {ids : List (Option EyeId)} {id : EyeId}
    (ha : Attributed s src (.eye ids)) (hid : (ids[idx.toNat]?).join = some id) (h : takeEye id edge stamp.toNat s = u) :
    Gives (exec (.eye src idx edge stamp) s) u := by
  refine gives_event ha.1.1 ((takeField_attributed ha rfl).trans ?_)
  simpa only [deliver, hid] using h

/-! ### The SCAN frame (R37, R38) -/

theorem takeScan_unconfigured {s : State} (r q : Nat) (codes : List TagCode) (h : s.tracker.cfg = none) :
    takeScan r q codes s = bump .stale s := by
  simp only [takeScan, h]

theorem takeScan_absent {s : State} {c : LoopCfg} {r : Nat} (q : Nat) (codes : List TagCode) (hc : s.tracker.cfg = some c)
    (hr : readerPos c r = none) : takeScan r q codes s = bump .unattached s := by
  simp only [takeScan, hc, hr]

theorem takeScan_stale {s : State} {c : LoopCfg} {r q : Nat} (codes : List TagCode) (hc : s.tracker.cfg = some c)
    (hr : (readerPos c r).isSome = true) (hq : Forgotten q s) : takeScan r q codes s = bump .stale s := by
  obtain ⟨p, hp⟩ := Option.isSome_iff_exists.mp hr
  simp only [takeScan, hc, hp, stampOf_forgotten hq]

/-- An attributed SCAN frame gives what its reader's event comes to. -/
theorem gives_scan {s u : State} {src stamp : Byte} {codes : List TagCode} {r : Nat} (ha : Attributed s src (.scanner r))
    (h : takeScan r stamp.toNat codes s = u) : Gives (exec (.scan src stamp codes) s) u :=
  gives_event ha.1.1 ((takeField_attributed ha rfl).trans h)

/-- Settles O26: without a configuration nothing can be stamped; with one, an absent eye or reader is met before the stamp
is looked up, and a forgotten stamp ends the event there. -/
theorem staleAndUnplacedEvents : Obligations.StaleAndUnplacedEvents := by
  intro s src idx stamp edge codes
  constructor
  · intro ids id ha hid
    refine ⟨fun hnone => ?unconfigured, fun c k hc hk hpos => ?absent, fun c hc hpos hq => ?stale⟩
    case unconfigured => exact gives_eye ha hid (takeEye_unconfigured id edge _ hnone)
    case absent =>
      subst hk
      exact gives_eye ha hid (takeEye_absent edge _ hc hpos)
    case stale => exact gives_eye ha hid (takeEye_stale edge hc (eyeConfigured_of_position hpos) hq)
  · intro r ha
    refine ⟨fun hnone => ?unconfigured, fun c hc hpos => ?absent, fun c hc hpos hq => ?stale⟩
    case unconfigured => exact gives_scan ha (takeScan_unconfigured r _ codes hnone)
    case absent => exact gives_scan ha (takeScan_absent _ codes hc hpos)
    case stale => exact gives_scan ha (takeScan_stale codes hc hpos hq)

end Sys2Proof.Machine
end

section
/-! The Manifest Store's requests that need no walk and no round of offers: DISCARD, ERASE and LOCK (R95, R96, R99). -/

namespace Sys2Proof.Machine

/-! ### Requests that do not touch the reply slots (R13) -/

/-- A request's work that neither reads the reply slots nor changes them: claiming a slot before it or after it is the
same. -/
def SlotFree (work : State → State × Answer) : Prop :=
  ∀ s k tag kind, work (claimSlot k tag kind s) = (claimSlot k tag kind (work s).1, (work s).2)

/-- A request that is taken, and whose work does not touch the slots, gives the reply of what its work answers in the
state before the claim. -/
theorem SlotFree.gives {work : State → State × Answer} {s u : State} {k : Nat} {tag kind : Byte} {st : Status}
    (hf : SlotFree work) (h : Takes s k) (hw : work s = answered st u) :
    Gives (event (takeReq tag kind fun _ => work) s) (withReply k tag kind st [] u) := by
  refine gives_event h.1.1 (takeReq_answered h ?_)
  rw [hf, hw, answered]

@[simp] theorem sailingAt_claimSlot (s : State) (k : Nat) (tag kind : Byte) (i : Nat) :
    sailingAt (claimSlot k tag kind s) i = sailingAt s i := rfl

@[simp] theorem sailingOwned_claimSlot (s : State) (k : Nat) (tag kind : Byte) (i : Nat) :
    sailingOwned (claimSlot k tag kind s) i = sailingOwned s i := rfl

/-- The sailings and the reply slots are separate parts of the state. -/
@[simp] theorem setSailing_claimSlot (s : State) (k : Nat) (tag kind : Byte) (i : Nat) (g : Sailing) :
    setSailing i g (claimSlot k tag kind s) = claimSlot k tag kind (setSailing i g s) := by
  unfold setSailing
  split <;> rfl

theorem slotFree_reqDiscard (i : Nat) : SlotFree (reqDiscard i) := by
  intro s k tag kind
  simp only [reqDiscard, answered, sailingAt_claimSlot, setSailing_claimSlot]
  split_ifs <;> rfl

theorem slotFree_reqErase (i : Nat) : SlotFree (reqErase i) := by
  intro s k tag kind
  simp only [reqErase, answered, sailingAt_claimSlot, sailingOwned_claimSlot, setSailing_claimSlot]
  split_ifs <;> rfl

theorem slotFree_reqLock (i : Nat) : SlotFree (reqLock i) := by
  intro s k tag kind
  simp only [reqLock, answered, sailingAt_claimSlot, setSailing_claimSlot]
  split_ifs <;> rfl

/-! ### Who owns a code of a sailing (R96) -/

/-- The live records are the entries of the bag table that hold a record. -/
theorem mem_liveBags {s : State} {i : Nat} {b : Bag} : (i, b) ∈ liveBags s ↔ (i, some b) ∈ s.bags := by
  simp [liveBags]

theorem sailingOwned_iff {s : State} {i : Nat} :
    sailingOwned s i = true ↔
      (∃ k b, (k, some b) ∈ s.bags ∧ b.owned.map (·.sailing) = some i) ∨
        ∃ e ∈ s.strays.entries, e.keyed.map (·.sailing) = some i := by
  simp only [sailingOwned, Bool.or_eq_true, List.any_eq_true, Prod.exists, mem_liveBags, decide_eq_true_eq]

/-! ### What each request answers, check by check -/

section
variable {s : State} {i : Nat}

theorem isSailing_iff : isSailing i = true ↔ i < 2 := decide_eq_true_iff

theorem reqDiscard_range (h : 2 ≤ i) : reqDiscard i s = answered .range s :=
  if_neg (isSailing_iff.not.mpr h.not_gt)

theorem reqErase_range (h : 2 ≤ i) : reqErase i s = answered .range s :=
  if_neg (isSailing_iff.not.mpr h.not_gt)

theorem reqLock_range (h : 2 ≤ i) : reqLock i s = answered .range s :=
  if_neg (isSailing_iff.not.mpr h.not_gt)

theorem reqDiscard_busy (h : i < 2) (hw : (sailingAt s i).walk.isSome = true) : reqDiscard i s = answered .busy s := by
  rw [reqDiscard, if_pos (isSailing_iff.mpr h), if_pos hw]

theorem reqDiscard_ok (h : i < 2) (hw : (sailingAt s i).walk = none) :
    reqDiscard i s = answered .ok (setSailing i { sailingAt s i with staging := emptyBank } s) := by
  rw [reqDiscard, if_pos (isSailing_iff.mpr h), if_neg (by simp [hw])]

theorem reqErase_busy (h : i < 2) (hw : (sailingAt s i).walk.isSome = true) : reqErase i s = answered .busy s := by
  rw [reqErase, if_pos (isSailing_iff.mpr h), if_pos hw]

/-- ERASE refuses an OPEN sailing, and one that a bag or a KEYED entry owns a code of, alike. -/
theorem reqErase_state (h : i < 2) (hw : (sailingAt s i).walk = none)
    (hs : (sailingAt s i).state = .opened ∨ sailingOwned s i = true) : reqErase i s = answered .state s := by
  rw [reqErase, if_pos (isSailing_iff.mpr h), if_neg (by simp [hw])]
  rcases hs with hopen | howned
  · rw [if_pos hopen]
  · rw [if_pos howned, ite_self]

theorem reqErase_ok (h : i < 2) (hw : (sailingAt s i).walk = none) (hopen : (sailingAt s i).state ≠ .opened)
    (howned : ¬ sailingOwned s i = true) : reqErase i s = answered .ok (setSailing i emptySailing s) := by
  rw [reqErase, if_pos (isSailing_iff.mpr h), if_neg (by simp [hw]), if_neg hopen, if_neg howned]

theorem reqLock_ok (h : i < 2) : reqLock i s = answered .ok (setSailing i { sailingAt s i with locked := true } s) :=
  if_pos (isSailing_iff.mpr h)

end

/-- Settles O57: none of the three requests touches the reply slots, so each clause is what the request answers under the
checks that stand. -/
theorem discardEraseAndLock : Obligations.DiscardEraseAndLock := by
  intro s k tag g htake
  refine ⟨fun hrange => ?range, fun hi => ⟨fun hwalk => ?busy, fun hidle => ?discard, fun hidle => ?erase, ?lock⟩⟩
  case range =>
    exact ⟨(slotFree_reqDiscard _).gives htake (reqDiscard_range hrange),
      (slotFree_reqErase _).gives htake (reqErase_range hrange), (slotFree_reqLock _).gives htake (reqLock_range hrange)⟩
  case busy =>
    exact ⟨(slotFree_reqDiscard _).gives htake (reqDiscard_busy hi hwalk),
      (slotFree_reqErase _).gives htake (reqErase_busy hi hwalk)⟩
  case discard => exact (slotFree_reqDiscard _).gives htake (reqDiscard_ok hi hidle)
  case erase =>
    refine ⟨fun hstate => ?_, fun hopen hfree => ?_⟩
    · exact (slotFree_reqErase _).gives htake (reqErase_state hi hidle (hstate.imp_right sailingOwned_iff.mpr))
    · exact (slotFree_reqErase _).gives htake (reqErase_ok hi hidle hopen (sailingOwned_iff.not.mpr hfree))
  case lock => exact (slotFree_reqLock _).gives htake (reqLock_ok hi)

end Sys2Proof.Machine
end

section
/-! Offers where no chute is available (R126), and the hold list that HOLD and RELEASE frames edit (R114 to R118). -/

namespace Sys2Proof.Machine

/-! ### Offers and rounds without an available chute (R126 to R130) -/

section
variable {s : State} {c : Nat}

theorem armServing_unavailable (i k : Nat) (h : available s c = false) : armServing i k c s = none := by
  simp [armServing, servesClass, h]

theorem armAssigning_unavailable (i k : Nat) (h : available s c = false) : armAssigning i k c s = none := by
  simp [armAssigning, unassigned, h]

theorem armStray_unavailable (i : Nat) (h : available s c = false) : armStray i c s = none := by
  simp [armStray, h]

theorem armOverflow_unavailable (i : Nat) (w : Reason) (h : available s c = false) : armOverflow i w c s = none := by
  simp [armOverflow, h]

theorem firstArmed_eq_none {f : Nat → State → Option State} {cs : List Nat} (h : ∀ c ∈ cs, f c s = none) :
    firstArmed f cs s = none := by
  induction cs with
  | nil => rfl
  | cons c cs ih =>
    obtain ⟨hc, hcs⟩ := List.forall_mem_cons.mp h
    simp only [firstArmed, hc, ih hcs]

/-- A way of arming that fails at every unavailable chute arms nowhere downstream of a bag. -/
theorem firstArmed_noneAvailable {f : Nat → State → Option State} (h : NoneAvailable s) (e : Nat)
    (hf : ∀ c, available s c = false → f c s = none) : firstArmed f (downstreamChutes s e) s = none :=
  firstArmed_eq_none fun c hc => hf c (h c (downstreamChutes_lt hc))

/-- Whatever the bag's target, its offer asks available chutes only. -/
theorem offerBag_noneAvailable (h : NoneAvailable s) (i : Nat) : offerBag i s = s := by
  unfold offerBag
  split
  case h_1 b _ =>
    have fails {f : Nat → State → Option State} := firstArmed_noneAvailable (f := f) h (b.edge.getD 0)
    split_ifs
    case pos =>
      simp only
      split
      case h_1 k _ =>
        rw [fails fun _ => armServing_unavailable i k, fails fun _ => armAssigning_unavailable i k]
        rfl
      case h_2 w _ =>
        rw [fails fun _ => armStray_unavailable i, fails fun _ => armOverflow_unavailable i w]
        rfl
      case h_3 w _ =>
        rw [fails fun _ => armOverflow_unavailable i w]
        rfl
      case h_4 => rfl
    case neg => rfl
  case h_2 => rfl

/-- No chute is given a round when none is available after the event. -/
theorem roundsDue_noneAvailable {t : State} (h : NoneAvailable t) : roundsDue s t = [] := by
  refine List.filter_eq_nil_iff.mpr fun c hc => ?_
  simp [h c (List.mem_range.mp hc)]

theorem withRounds_noneAvailable {f : State → State} (h : NoneAvailable (f s)) : withRounds f s = f s := by
  rw [withRounds, roundsDue_noneAvailable h]
  rfl

/-- The bag records do not bear on availability. -/
theorem NoneAvailable.setBag (h : NoneAvailable s) (i : Nat) (o : Option Bag) : NoneAvailable (setBag i o s) := h

end

/-! ### A target given to a bag that is not ARMED (R61, R72) -/

section
variable {s : State} {i : Nat} {b : Bag}

theorem modifyBag_live (hb : bagAt s i = some b) (f : Bag → Bag) : modifyBag i f s = setBag i (some (f b)) s := by
  simp only [modifyBag, hb]

theorem disarm_not_armed (hb : bagAt s i = some b) (hs : b.state ≠ .armed) : disarm i s = s := by
  simp [disarm, inState, hb, hs]

/-- Without an available chute the bag is ROUTED to the target R72 allows it, and its offer changes nothing. -/
theorem giveTarget_noneAvailable (h : NoneAvailable s) (hb : bagAt s i = some b) (hs : b.state ≠ .armed) (t : Target) :
    giveTarget i t s = setBag i (some { b with target := some (allowedTarget s b t), state := .routed }) s := by
  simp only [giveTarget, hb, disarm_not_armed hb hs, setTarget, modifyBag_live hb]
  exact offerBag_noneAvailable (h.setBag i _) i

end

/-! ### The owner of a newly held code (R116) -/

section
variable {s : State} {x : TagCode}

theorem ownerBag_eq_none (h : ∀ i b, (i, some b) ∈ s.bags → b.owned.map (·.code) ≠ some x) : ownerBag s x = none := by
  refine List.find?_eq_none.mpr fun (i, b) hb => ?_
  simpa using h i b (mem_liveBags.mp hb)

theorem strayHeld_unowned (h : ∀ i b, (i, some b) ∈ s.bags → b.owned.map (·.code) ≠ some x) : strayHeld x s = s := by
  simp only [strayHeld, ownerBag_eq_none h]

/-- An owner ROUTED to a cage keeps its record but for the target, where no chute can take it at once. -/
theorem strayHeld_routed {i k : Nat} {b : Bag} (h : NoneAvailable s) (ho : ownerBag s x = some (i, b))
    (hb : bagAt s i = some b) (hs : b.state = .routed) (ht : b.target = some (.sort k)) :
    strayHeld x s = setBag i (some { b with target := some (.stray .held) }) s := by
  have hgive : giveTarget i (.stray .held) s = setBag i (some { b with target := some (.stray .held) }) s := by
    rw [giveTarget_noneAvailable h hb (by simp [hs]), ← hs]
    rfl
  have hcage : (b.state = .routed ∨ b.state = .armed) ∧ isSort b.target = true := ⟨.inl hs, by rw [ht]; rfl⟩
  simp only [strayHeld, ho, if_pos hcage]
  rw [withRounds_noneAvailable (hgive ▸ h.setBag i _), hgive]

end

/-- Of one bag on the belt, ROUTED to a cage under its code, the hold of that code changes the target alone. -/
theorem strayHeld_single {s : State} {i k : Nat} {b : Bag} {o : Owned} (h : NoneAvailable s)
    (hbags : s.bags = [(i, some b)]) (ho : b.owned = some o) (hs : b.state = .routed) (ht : b.target = some (.sort k)) :
    strayHeld o.code s = { s with bags := [(i, some { b with target := some (.stray .held) })] } := by
  have howner : ownerBag s o.code = some (i, b) := by simp [ownerBag, liveBags, hbags, ho]
  have hlive : bagAt s i = some b := by simp [bagAt, hbags, tableGet]
  rw [strayHeld_routed h howner hlive hs ht]
  simp [setBag, hbags, tablePut]

/-! ### What HOLD and RELEASE come to, check by check (R114, R115, R117) -/

section
variable {s : State} {x : TagCode} (src : Nat)

theorem ackHold_eq (st : HoldStatus) (s : State) : ackHold src x st s = withControl src (.holdAck x st) s :=
  pushControl_eq ..

theorem takeHold_misread (hw : wellFormedCode x = false) :
    takeHold src x s = withControl src (.holdAck x .badCode) (bump .misreads s) := by
  rw [takeHold, if_neg (by simp [hw]), ackHold_eq]

theorem takeHold_already (hw : wellFormedCode x = true) (hx : x ∈ s.holds) :
    takeHold src x s = withControl src (.holdAck x .already) s := by
  rw [takeHold, if_pos hw, if_pos hx, ackHold_eq]

theorem takeHold_full (hw : wellFormedCode x = true) (hx : x ∉ s.holds) (hl : 32 ≤ s.holds.length) :
    takeHold src x s = withControl src (.holdAck x .full) s := by
  rw [takeHold, if_pos hw, if_neg hx, if_neg hl.not_gt, ackHold_eq]

/-- A code that joins the list is acknowledged after its owner has been acted on. -/
theorem takeHold_joins {u : State} (hw : wellFormedCode x = true) (hx : x ∉ s.holds) (hl : s.holds.length < 32)
    (hu : strayHeld x { s with holds := s.holds ++ [x] } = u) :
    takeHold src x s = withControl src (.holdAck x .held) u := by
  rw [takeHold, if_pos hw, if_neg hx, if_pos hl, joinHold, hu, ackHold_eq]

theorem takeRelease_misread (hw : wellFormedCode x = false) :
    takeRelease src x s = withControl src (.holdAck x .badCode) (bump .misreads s) := by
  rw [takeRelease, if_neg (by simp [hw]), ackHold_eq]

theorem takeRelease_notHeld (hw : wellFormedCode x = true) (hx : x ∉ s.holds) :
    takeRelease src x s = withControl src (.holdAck x .notHeld) s := by
  rw [takeRelease, if_pos hw, if_neg hx, ackHold_eq]

theorem takeRelease_released (hw : wellFormedCode x = true) (hx : x ∈ s.holds) :
    takeRelease src x s = withControl src (.holdAck x .released) { s with holds := s.holds.filter (· ≠ x) } := by
  rw [takeRelease, if_pos hw, if_pos hx, ackHold_eq]

end

/-! ### The frames of the screening node -/

section
variable {s u : State} {src : Byte} {x : TagCode}

theorem gives_hold (ha : Attributed s src .screening) (h : takeHold src.toNat x s = u) :
    Gives (exec (.hold src x) s) u :=
  gives_event ha.1.1 ((takeField_attributed ha rfl).trans h)

theorem gives_release (ha : Attributed s src .screening) (h : takeRelease src.toNat x s = u) :
    Gives (exec (.release src x) s) u :=
  gives_event ha.1.1 ((takeField_attributed ha rfl).trans h)

end

/-- Settles O37: each clause is one branch of the HOLD or RELEASE event. Where a code joins the list, what remains is its
owner: none, or the one bag, which is given STRAY(HELD) and is offered nowhere. -/
theorem holdFramesEditList : Obligations.HoldFramesEditList := by
  intro s src x ha
  refine ⟨fun hw => ?misread, fun hw hx => ?already, fun hw hx hl => ?full, fun hw hx hl hfree => ?unowned,
    fun i b o k hw hx hl hnone hbags ho hcode hs ht => ?owned, fun hw => ?badRelease, fun hw hx => ?notHeld,
    fun hw hx => ?released⟩
  case misread => exact gives_hold ha (takeHold_misread _ hw)
  case already => exact gives_hold ha (takeHold_already _ hw hx)
  case full => exact gives_hold ha (takeHold_full _ hw hx hl)
  case unowned => exact gives_hold ha (takeHold_joins _ hw hx hl (strayHeld_unowned hfree))
  case owned =>
    subst hcode
    exact gives_hold ha (takeHold_joins _ hw hx hl (strayHeld_single hnone hbags ho hs ht))
  case badRelease => exact gives_release ha (takeRelease_misread _ hw)
  case notHeld => exact gives_release ha (takeRelease_notHeld _ hw hx)
  case released => exact gives_release ha (takeRelease_released _ hw hx)

end Sys2Proof.Machine
end

section
/-! The chute eye: what an EYE frame with a good stamp hands over (R36), and the chute-eye events that no DIVERTING bag
explains (R141, R154, R155). -/

namespace Sys2Proof.Machine

/-! ### A stamp that the history holds once (R36) -/

section
variable {q adv : Nat} {s : State}

/-- Entries under other numbers, standing before, do not bear on what a stamp finds. -/
theorem stampEntries_append {l r : List HistEntry} (h : ∀ e ∈ l, e.seq ≠ q) :
    stampEntries q (l ++ r) = stampEntries q r := by
  induction l with
  | nil => rfl
  | cons e l ih =>
    obtain ⟨he, hl⟩ := List.forall_mem_cons.mp h
    simp only [List.cons_append, stampEntries, if_neg he, ih hl]

/-- A stamp held once is read without a choice, and gives the advance since. -/
theorem stampOf_stamped (h : Stamped s q adv) : ∃ p, stampOf q s = (some (p, adv), s) := by
  obtain ⟨l, e, r, hhist, he, hother, rfl⟩ := h
  obtain ⟨hl, hr⟩ := List.forall_mem_append.mp hother
  have hone : stampEntries q s.tracker.history = [(e.pos, (r.map (·.adv)).sum)] := by
    rw [hhist, stampEntries_append hl, stampEntries, if_pos he, stampEntries_eq_nil hr]
  exact ⟨e.pos, by simp [stampOf, hone, pick]⟩

/-- An event of a configured eye with such a stamp goes to the eye's owner, the state as it stood. -/
theorem takeEye_stamped {c : LoopCfg} {id : EyeId} (edge : Edge) (hc : s.tracker.cfg = some c)
    (hid : eyeConfigured c id = true) (h : Stamped s q adv) : takeEye id edge q s = handEye c id edge adv s := by
  obtain ⟨p, hp⟩ := stampOf_stamped h
  simp only [takeEye, hc, hid, if_true, hp]

end

/-! ### The chute eye (R154, R155) -/

section
variable {s : State} {c : Nat}

/-- No bag is the earliest fired of a queue in which no entry has firing rank 1. -/
theorem oldestFired_eq_none (h : ∀ e ∈ queueAt s c, e.rank ≠ some 1) : oldestFired s c = none := by
  simpa [oldestFired, List.find?_eq_none] using h

theorem chuteEye_unexplained (h : ∀ e ∈ queueAt s c, e.rank ≠ some 1) : chuteEye c .block s = unexplainedBlock c s := by
  simp only [chuteEye, oldestFired_eq_none h]

/-- At a SORT chute with a cage, an unexplained BLOCK is a ghost and an unknown entry of the cage (R141). -/
theorem unexplainedBlock_caged {r : Chute} (hr : chuteAt s c = some r) (hrole : r.role = .sort)
    (hcage : r.cage.state ≠ .absent) :
    unexplainedBlock c s = bump .ghosts
      (setChute c { r with cage := { r.cage with unknown := min 255 (r.cage.unknown + 1) } } s) := by
  have hr' : chuteAt (bump .ghosts s) c = some r := hr
  simp only [unexplainedBlock, modifyCage, modifyChute, hr', if_pos (And.intro hrole hcage)]
  rfl

/-- Anywhere else it is a ghost alone. -/
theorem unexplainedBlock_uncaged (h : ∀ r, chuteAt s c = some r → r.role ≠ .sort ∨ r.cage.state = .absent) :
    unexplainedBlock c s = bump .ghosts s := by
  have hsame : chuteAt (bump .ghosts s) c = chuteAt s c := rfl
  unfold unexplainedBlock
  simp only [hsame]
  cases hr : chuteAt s c with
  | none => rfl
  | some r =>
    have hno : ¬(r.role = .sort ∧ r.cage.state ≠ .absent) := fun ⟨hrole, hcage⟩ => (h r hr).elim (· hrole) hcage
    exact if_neg hno

/-- An attributed EYE frame of chute c's eye with a good stamp gives what the chute eye's event comes to. -/
theorem gives_chuteEye {u : State} {src idx stamp : Byte} {edge : Edge} {ids : List (Option EyeId)} {adv : Nat}
    {cfg : LoopCfg} (ha : Attributed s src (.eye ids)) (hid : (ids[idx.toNat]?).join = some (.chute c))
    (hcfg : s.tracker.cfg = some cfg) (hst : Stamped s stamp.toNat adv) (h : chuteEye c edge s = u) :
    Gives (exec (.eye src idx edge stamp) s) u :=
  gives_eye ha hid ((takeEye_stamped edge hcfg rfl hst).trans h)

end

/-- Settles O40: the CLEAR is handed to the chute eye, which leaves it; a BLOCK finds no bag of firing rank 1, and what it
counts turns on whether the chute keeps a cage. -/
theorem chuteEyeClearAndUnexplained : Obligations.ChuteEyeClearAndUnexplained := by
  intro s src idx stamp ids c adv cfg ha hid hcfg hst
  refine ⟨?clear, fun hq => ⟨fun r hr hrole hcage => ?caged, fun hno => ?uncaged⟩⟩
  case clear => exact gives_chuteEye ha hid hcfg hst rfl
  case caged =>
    exact gives_chuteEye ha hid hcfg hst ((chuteEye_unexplained hq).trans (unexplainedBlock_caged hr hrole hcage))
  case uncaged =>
    exact gives_chuteEye ha hid hcfg hst ((chuteEye_unexplained hq).trans (unexplainedBlock_uncaged hno))

end Sys2Proof.Machine
end

section
/-! The lead, the fire position and the window of a divert (R147, R148). -/

namespace Sys2Proof.Machine

section
variable {v a l pc lb lead mg : Nat}

/-- R147's rounding up is Mathlib's ceiling division, whose adjunction says that it is the least count that covers. -/
theorem leadOf_eq_ceilDiv : leadOf v a = min 4095 (v * a ⌈/⌉ 32) := rfl

theorem leadOf_le : leadOf v a ≤ 4095 := Nat.min_le_left _ _

/-- A chute stands 4096 or more from the origin (R123), so no lead reaches back past it. -/
theorem firePos_add_lead (hlead : lead ≤ 4095) (hpc : 4096 ≤ pc) : firePos pc lb lead + lead = pc + lb / 2 :=
  Nat.sub_add_cancel (by omega)

theorem one_le_firePos (hlead : lead ≤ 4095) (hpc : 4096 ≤ pc) : 1 ≤ firePos pc lb lead :=
  Nat.le_sub_of_add_le (by omega)

/-- A chute stands 1024 or more short of the loop's end (R123), which is more than half a bag. -/
theorem firePos_le (hpc : pc + 1024 ≤ l) (hlb : lb ≤ 2047) : firePos pc lb lead ≤ l - 1 :=
  (Nat.sub_le _ _).trans (by omega)

theorem one_le_windowOf : 1 ≤ windowOf lb mg := Nat.le_max_left _ _

/-- A bag has a length, so R148's lower bound on the window never acts. -/
theorem windowOf_eq_min (hlb : 1 ≤ lb) : windowOf lb mg = min 4095 (lb + 2 * mg) :=
  max_eq_right (by omega)

end

/-- Settles O38: the lead is a ceiling division capped at 4095, and that cap with R123's margins at both ends of the loop keeps
the fire position off either end. -/
theorem leadFireAndWindow : Obligations.LeadFireAndWindow := by
  intro v a
  have hcover : ∀ n, v * a ⌈/⌉ 32 ≤ n ↔ v * a ≤ 32 * n := fun n => ceilDiv_le_iff_le_mul (by decide)
  refine ⟨⟨v * a ⌈/⌉ 32, (hcover _).mp le_rfl, fun m => (hcover m).mpr, leadOf_eq_ceilDiv⟩, ?_⟩
  intro l pc lb mg hpc hl hlb hmax
  exact ⟨firePos_add_lead leadOf_le hpc, one_le_firePos leadOf_le hpc, firePos_le hl hmax, windowOf_eq_min hlb,
    one_le_windowOf⟩

end Sys2Proof.Machine
end
